-- ==== Sys2Proof/Word.lean ====
section
/-! DEFINITION. The plain data every file uses: bytes, the index types of the tables of the manual
(00_scope.md section 5, Numbering), and tables of a fixed number of records. -/

namespace Sys2Proof

abbrev Byte := BitVec 8
/-- A two-byte number, a marker time among them (R2, R205). -/
abbrev Half := BitVec 16

abbrev MarkerId := Fin 96
abbrev SectionId := Fin 64
abbrev ConvoyId := Fin 8
abbrev SlotId := Fin 24
abbrev CellId := Fin 8
abbrev DriverId := Fin 8
abbrev LineId := Fin 16
abbrev DepartureId := Fin 8
abbrev SourceId := Fin 21

/-- The number `k` as an index of a table of `n` records, if the table has one. -/
def index? (n k : Nat) : Option (Fin n) :=
  if h : k < n then some ⟨k, h⟩ else none

/-- A table of `n` records, number 0 first. -/
abbrev Table (α : Type) (n : Nat) := Vector α n

def Table.all {α : Type} {n : Nat} (a : α) : Table α n := Vector.replicate n a

def Table.at {α : Type} {n : Nat} (t : Table α n) (i : Fin n) : α := t[i.val]

def Table.put {α : Type} {n : Nat} (t : Table α n) (i : Fin n) (a : α) : Table α n :=
  t.set i.val a i.isLt

def Table.upd {α : Type} {n : Nat} (t : Table α n) (i : Fin n) (f : α → α) : Table α n :=
  Table.put t i (f (Table.at t i))

/-- Every record replaced by what `f` makes of its number and itself. -/
def Table.mapAll {α β : Type} {n : Nat} (f : Fin n → α → β) (t : Table α n) : Table β n :=
  ⟨⟨(List.finRange n).map fun i => f i (Table.at t i)⟩, by simp⟩

/-- Every record with its number, in ascending number. -/
def Table.entries {α : Type} {n : Nat} (t : Table α n) : List (Fin n × α) :=
  (List.finRange n).map fun i => (i, Table.at t i)

/-- The numbers of the records that meet `f`, ascending. -/
def Table.numbers {α : Type} {n : Nat} (t : Table α n) (f : α → Bool) : List (Fin n) :=
  (List.finRange n).filter fun i => f (Table.at t i)

end Sys2Proof
end

