-- ==== Sys2Proof/Syntax.lean ====
section
/-! DEFINITION. The commands the part takes: one constructor for each row of spec/opcode_table.json. -/

namespace Sys2Proof

/-- What stands on an accessory line's wire (chapter 8, opening). -/
inductive PinState where
  | high
  | low
deriving DecidableEq, Repr

/-- The level of the rate strap input (R187). -/
inductive Strap where
  | low
  | high
deriving DecidableEq, Repr

/-- A byte from the host link as the receiver sees it: with its stop bit, or a bad byte (R187). -/
inductive LineByte where
  | good (b : Byte)
  | bad
deriving DecidableEq, Repr

/-- A command. The requests carry the tag and the body of the frame (R206), the events what their port reports. -/
inductive Instr where
  | sdef (tag : Byte) (body : List Byte)
  | sout (tag : Byte) (body : List Byte)
  | srst (tag : Byte) (body : List Byte)
  | sqry (tag : Byte) (body : List Byte)
  | smk (tag : Byte) (body : List Byte)
  | qmk (tag : Byte) (body : List Byte)
  | fcv (tag : Byte) (body : List Byte)
  | dcv (tag : Byte) (body : List Byte)
  | lrt (tag : Byte) (body : List Byte)
  | run (tag : Byte) (body : List Byte)
  | stp (tag : Byte) (body : List Byte)
  | tcv (tag : Byte) (body : List Byte)
  | qcv (tag : Byte) (body : List Byte)
  | spd (tag : Byte) (body : List Byte)
  | qdr (tag : Byte) (body : List Byte)
  | shl (tag : Byte) (body : List Byte)
  | hlt (tag : Byte) (body : List Byte)
  | rsm (tag : Byte) (body : List Byte)
  | scl (tag : Byte) (body : List Byte)
  | qcl (tag : Byte) (body : List Byte)
  | ssl (tag : Byte) (body : List Byte)
  | sch (tag : Byte) (body : List Byte)
  | key (tag : Byte) (body : List Byte)
  | rls (tag : Byte) (body : List Byte)
  | qsl (tag : Byte) (body : List Byte)
  | sfp (tag : Byte) (body : List Byte)
  | sln (tag : Byte) (body : List Byte)
  | wln (tag : Byte) (body : List Byte)
  | qln (tag : Byte) (body : List Byte)
  | sck (tag : Byte) (body : List Byte)
  | rck (tag : Byte) (body : List Byte)
  | adj (tag : Byte) (body : List Byte)
  | qck (tag : Byte) (body : List Byte)
  | sdp (tag : Byte) (body : List Byte)
  | qdp (tag : Byte) (body : List Byte)
  | mod (tag : Byte) (body : List Byte)
  | smo (tag : Byte) (body : List Byte)
  | prl (tag : Byte) (body : List Byte)
  | qst (tag : Byte) (body : List Byte)
  | rst (tag : Byte) (body : List Byte)
  | enn (tag : Byte) (body : List Byte)
  | dsn (tag : Byte) (body : List Byte)
  | prn (tag : Byte) (body : List Byte)
  | cln (tag : Byte) (body : List Byte)
  | qnt (tag : Byte) (body : List Byte)
  | unknownKind (kind tag : Byte) (body : List Byte)
  /-- The two bytes of a detector board report (R213). -/
  | boardReport (board levels : Byte)
  | holdOffExpiry (marker : MarkerId)
  | markerTimeTick
  | settleTimerExpiry (sec : SectionId)
  /-- The three bytes of a handset update (R213). -/
  | handsetUpdate (driver throttle buttons : Byte)
  | lostTimerExpiry (driver : DriverId)
  | cellScan
  | oneShotExpiry (cell : CellId)
  | frameStart
  | linePinChange (line : LineId) (pin : PinState)
  | flashToggle (line : LineId)
  | scaleSecond
  | byteReceived (b : LineByte)
  | gapTimerExpiry
  | messageSent
  | powerOn
  | resetLine
  /-- With the rate strap and the sixteen pins as they stand at that moment, bit i of `pins` set when line i's pin is
  HIGH (R157, R187). -/
  | leaveReset (strap : Strap) (pins : Half)
  | supplyBelowOperatingLevel
deriving DecidableEq, Repr

end Sys2Proof
end

