-- ==== Sys2Proof/Machine/State.lean ====
section
/-! DEFINITION. The state of the part, as the record tables of chapters 1 to 11 give it, and its value right after a
POWER_ON reset is left. -/

namespace Sys2Proof.Machine

/-! ## Reasons to stop -/

/-- No command stops the part: every request gets a reply and every event has its effect or none. The type has no
constructor, so no step can answer a fault. -/
inductive Fault where
deriving DecidableEq, Repr

inductive Refusal where
  /-- Raised by an arm of exec whose command has no meaning yet. Safe: nothing is claimed of such a command. -/
  | notModelled (mnemonic : String)
deriving DecidableEq, Repr

/-! ## Marker scanner (1.1) -/

/-- Hold-off states of a marker (R3). The stored input level is active in `active` and inactive in `settling` and
`armed`. -/
inductive HoldOff where
  | unknown
  | active
  | settling
  | armed
deriving DecidableEq, Repr

structure Marker where
  state : HoldOff
  /-- The inactive-since time (R3); none after a reset and while active. -/
  since : Option Half
  lastPulse : Option Half
deriving DecidableEq, Repr

structure MarkerScanner where
  /-- Marker time in 10 ms units (R2). -/
  time : Half
  /-- The device-wide hold-off time in ms (R4). -/
  holdOff : Nat
  markers : Table Marker 96
deriving DecidableEq, Repr

/-! ## Sections and the road interlock (1.2, 2.1) -/

/-- Passage direction. -/
inductive Dir where
  | aToB
  | bToA
deriving DecidableEq, Repr

/-- The setting a route step needs at its section's junction; `plain` is NONE. -/
inductive Branch where
  | plain
  | straight
  | turn
deriving DecidableEq, Repr

inductive Travel where
  | forward
  | reverse
deriving DecidableEq, Repr

/-- Kind of a defined section. A section that is not defined has no definition at all. -/
inductive SectionKind where
  | oneWay
  | twoWay
  | dock
deriving DecidableEq, Repr

inductive OutCause where
  | reset
  | host
  | disbanded
deriving DecidableEq, Repr

inductive FaultCause where
  | countOver
  | countUnder
  | stray
deriving DecidableEq, Repr

structure Junction where
  line : LineId
  /-- Settle time in ms. -/
  settle : Nat
deriving DecidableEq, Repr

/-- What SDEF sets (R9, R10). -/
structure SectionDef where
  kind : SectionKind
  endA : MarkerId
  endB : Option MarkerId
  allowed : Option Dir
  junction : Option Junction
  patience : Nat
deriving DecidableEq, Repr

structure LogEntry where
  member : Nat
  time : Half
deriving DecidableEq, Repr

/-- Holder, passage direction, counts and entry log, which "come and go together" (R7). -/
structure Holding where
  convoy : ConvoyId
  dir : Dir
  entered : Nat
  exited : Nat
  log : List LogEntry
deriving DecidableEq, Repr

/-- The six states of R7. The holding stands exactly in the states that have a holder. -/
inductive SectionStatus where
  | undefined
  | out (cause : OutCause)
  | free
  | granted (h : Holding)
  | occupied (h : Holding)
  | fault (cause : FaultCause) (h : Option Holding)
deriving DecidableEq, Repr

structure Section where
  defn : Option SectionDef
  status : SectionStatus
  /-- The waiting queue, front first: the convoys whose requests wait (R25). -/
  queue : List ConvoyId
  earmark : Option ConvoyId
  /-- Remaining ms of the junction settle timer; none while stopped (R38). -/
  settle : Option Nat
deriving DecidableEq, Repr

/-- One section of a group request, with its direction and branch. -/
structure Leg where
  sec : SectionId
  dir : Dir
  branch : Branch
deriving DecidableEq, Repr

/-- A convoy's group request (2.1). -/
structure GroupRequest where
  first : Nat
  legs : List Leg
  arrival : Nat
  passed : Nat
  promoted : Bool
deriving DecidableEq, Repr

/-- A granted group whose junctions have not all settled (R39). -/
structure SettlingRecord where
  convoy : ConvoyId
  first : Nat
  last : Nat
  sections : List SectionId
deriving DecidableEq, Repr

/-! ## Convoys and halt records (3.1, 5.1) -/

inductive StepStatus where
  | ahead
  | requested
  | settling
  | held
  | done
  | lost
deriving DecidableEq, Repr

structure RouteStep where
  sec : SectionId
  dir : Dir
  branch : Branch
  link : Bool
  travel : Travel
  status : StepStatus
deriving DecidableEq, Repr

/-- The states a formed convoy may have when it is not halted, and may return to when it is. -/
inductive BaseState where
  | standing
  | waiting
  | running
  | arrived
deriving DecidableEq, Repr

/-- The six states of R52: `plain` for the four of `BaseState`, `halted` with its return state. -/
inductive ConvoyState where
  | vacant
  | plain (b : BaseState)
  | halted (ret : BaseState)
deriving DecidableEq, Repr

inductive DemandSource where
  | host
  | timetable
  | driver (d : DriverId)
deriving DecidableEq, Repr

structure Member where
  slot : SlotId
  trailers : Nat
  /-- Gap trim, −8 to +8. -/
  trim : Int
  lastGap : Option Half
deriving DecidableEq, Repr

/-- A set of halt sources: bits 0 to 7 CELL0 to CELL7, 8 DRIVER_LOST, 9 SECTION_FAULT, 10 DRIVER_HALT,
11 SECTION_LOST, 12 HOST, as the source mask of R210 numbers them. -/
abbrev SourceSet := BitVec 13

inductive ThrottleAction where
  | neutral
  | brake
  | holdLast
  | release
deriving DecidableEq, Repr

inductive LightsAction where
  | hazard
  | on
  | off
  | unchanged
deriving DecidableEq, Repr

inductive RestartMode where
  | auto
  | manual
deriving DecidableEq, Repr

structure HaltRecord where
  enabled : SourceSet
  causes : SourceSet
  throttle : ThrottleAction
  lights : LightsAction
  restart : RestartMode
  rearm : Bool
deriving DecidableEq, Repr

structure Convoy where
  state : ConvoyState
  members : List Member
  priority : Nat
  source : DemandSource
  hostSpeed : Nat
  cruise : Nat
  ramp : Nat
  /-- Current timetable demand, in hundredths of a percent. -/
  ttDemand : Nat
  lag : Nat
  gapMin : Nat
  gapMax : Nat
  trimStep : Nat
  route : List RouteStep
  lead : Nat
  tail : Nat
  furthest : Nat
  /-- Demand history, newest first. -/
  history : List Nat
  /-- First and last step of the group asked for. -/
  asked : Option (Nat × Nat)
  halt : HaltRecord
deriving DecidableEq, Repr

/-! ## Driver port (4.2) -/

/-- Presence with the lost timer: the timer runs exactly while the driver is PRESENT (R80). -/
inductive Presence where
  | lost
  | present (left : Nat)
deriving DecidableEq, Repr

structure Handset where
  throttle : Int
  horn : Bool
  halt : Bool
  aux : Bool
  presence : Presence
deriving DecidableEq, Repr

structure DriverPort where
  handsets : Table Handset 8
  errors : Nat
deriving DecidableEq, Repr

/-! ## Condition cells (6.1) -/

inductive PulseKind where
  | minute
  | quarter
  | hour
deriving DecidableEq, Repr

/-- The layout modes (R175). -/
inductive Mode where
  | run
  | slow
  | hold
  | park
deriving DecidableEq, Repr

/-- Input selectors (R112). -/
inductive Selector where
  | sectionHeld (i : SectionId)
  | sectionFault (i : SectionId)
  | convoyRunning (c : ConvoyId)
  | convoyWaiting (c : ConvoyId)
  | convoyHalted (c : ConvoyId)
  | cell (k : CellId)
  | driverPresent (d : DriverId)
  | driverHorn (d : DriverId)
  | driverHalt (d : DriverId)
  | driverAux (d : DriverId)
  | lineLevel (l : LineId)
  | departureFired (e : DepartureId)
  | clockPulse (k : PulseKind)
  | modeIs (m : Mode)
  | always
deriving DecidableEq, Repr

inductive Term where
  | ignored
  | asRead
  | inverted
deriving DecidableEq, Repr

structure Gate where
  terms : Table Term 4
  invert : Bool
deriving DecidableEq, Repr

inductive CellFn where
  | andOr
  | orXor
  | allFour
  | setReset
  | toggle
  | oneShot
deriving DecidableEq, Repr

structure Cell where
  enabled : Bool
  selectors : Table Selector 4
  gates : Table Gate 4
  fn : CellFn
  invert : Bool
  /-- One-shot time in ms. -/
  shotTime : Nat
  riseNotice : Bool
  fallNotice : Bool
  latch : Bool
  /-- One-shot remaining in ms. -/
  remaining : Nat
  /-- Gate 1 last. -/
  last : Option Bool
  reload : Bool
  output : Bool
deriving DecidableEq, Repr

/-- The CLOCK_PULSE marks (R114, R160). -/
structure ClockPulses where
  minute : Bool
  quarter : Bool
  hour : Bool
deriving DecidableEq, Repr

/-! ## Vehicle slots (7.1) -/

/-- One flag for each channel. -/
structure ChannelFlags where
  throttle : Bool
  coupler : Bool
  lights : Bool
  aux : Bool
deriving DecidableEq, Repr

structure SlotSettings where
  address : Option Nat
  span : Nat
  brake : Nat
  /-- Forward-to-reverse dead time in ms. -/
  deadFR : Nat
  /-- Reverse-to-forward dead time in ms. -/
  deadRF : Nat
  reverse : ChannelFlags
deriving DecidableEq, Repr

inductive ChannelMode where
  | steered
  | fixed
deriving DecidableEq, Repr

structure Channel where
  mode : ChannelMode
  value : Nat
deriving DecidableEq, Repr

structure Channels where
  throttle : Channel
  coupler : Channel
  lights : Channel
  aux : Channel
deriving DecidableEq, Repr

inductive OnAir where
  | offAir
  | onAir
  | rundown (frames : Nat)
deriving DecidableEq, Repr

/-- The class of a THROTTLE value (R133). -/
inductive ThrottleClass where
  | stop
  | drive (t : Travel)
deriving DecidableEq, Repr

/-- The four values of the last frame that listed the slot, with THROTTLE's class (R141). -/
structure Sent where
  throttle : Nat
  cls : ThrottleClass
  coupler : Nat
  lights : Nat
  aux : Nat
deriving DecidableEq, Repr

structure Slot where
  settings : SlotSettings
  channels : Channels
  waiting : Option SlotSettings
  keyed : Bool
  onAir : OnAir
  /-- Running direction; none is NONE. -/
  direction : Option Travel
  /-- Neutral-since, the time of a frame start in ms. -/
  neutralSince : Option Nat
  sent : Option Sent
deriving DecidableEq, Repr

structure Composer where
  slots : Table Slot 24
  /-- The selected frame period in ms (R140). -/
  period : Nat
  /-- The length in ms of the interval under way. -/
  interval : Nat
  /-- The time of the last frame start, in ms since the part left the reset. -/
  frameTime : Nat
  /-- The last air frame handed to the transmitter (R142, R213). -/
  airFrame : Option (List Byte)
deriving DecidableEq, Repr

/-! ## Accessory lines (8.1) -/

inductive LineDirection where
  | input
  | output
deriving DecidableEq, Repr

inductive Drive where
  | enabled
  | released
deriving DecidableEq, Repr

/-- Line functions; `data` is NONE, which drives the data (R148). -/
inductive LineFunction where
  | data
  | junction
  | cell (k : CellId)
  | flash
deriving DecidableEq, Repr

/-- A running flash phase, with the ms to the next toggle (R151). -/
structure FlashPhase where
  phase : Bool
  left : Nat
deriving DecidableEq, Repr

/-- A frozen value: the pin state, and its logical value through the invert flag in force at park entry (R146). -/
structure Frozen where
  pin : PinState
  level : Bool
deriving DecidableEq, Repr

structure Line where
  direction : LineDirection
  drive : Drive
  data : Bool
  function : LineFunction
  invert : Bool
  wake : Bool
  /-- Flash period in ms. -/
  flashPeriod : Nat
  flashGate : CellId
  /-- Junction value: false is 0, STRAIGHT; true is 1, TURN. -/
  junction : Bool
  flash : Option FlashPhase
  frozen : Option Frozen
  /-- What stands on the wire from outside. -/
  wire : PinState
deriving DecidableEq, Repr

/-! ## Layout clock and departures (9.1, 9.3) -/

structure LayoutClock where
  day : Nat
  hour : Nat
  minute : Nat
  second : Nat
  /-- Thousandths of a scale second. -/
  fraction : Nat
  ratio : Nat
  running : Bool
deriving DecidableEq, Repr

inductive DepartureAction where
  | start
  | wake
  | resume
  | signal
deriving DecidableEq, Repr

/-- A departure entry; none in `day`, `hour` or `minute` is ANY. -/
structure Departure where
  enabled : Bool
  day : Option Nat
  hour : Option Nat
  minute : Option Nat
  action : DepartureAction
  convoy : Option ConvoyId
  cruise : Nat
  ramp : Nat
  fired : Bool
  missed : Nat
deriving DecidableEq, Repr

/-! ## Mode controller (10.1) -/

inductive ResetCause where
  | powerOn
  | resetLine
  | command
deriving DecidableEq, Repr

structure ModeControl where
  mode : Mode
  latch : Bool
  slowLimit : Nat
  holdCell : Option CellId
  driverWake : Bool
  cause : ResetCause
deriving DecidableEq, Repr

/-! ## Notice controller and host link (11) -/

/-- A source record (R197); bit k of `subjects` is number k. -/
structure NoticeSource where
  pending : Bool
  enabled : Bool
  announced : Bool
  priority : Nat
  subjects : BitVec 64
deriving DecidableEq, Repr

structure NoticeControl where
  sources : Table NoticeSource 21
  /-- The number the next NTC will carry. -/
  seq : Byte
deriving DecidableEq, Repr

/-- A received request: kind, tag and body of a frame whose check agreed (R189). -/
structure Request where
  kind : Byte
  tag : Byte
  body : List Byte
deriving DecidableEq, Repr

/-- The receiver (R188). `body` holds the length byte and the bytes stored after it, in order of arrival. -/
inductive Receiver where
  | hunt
  | length
  | body (len : Byte) (got : List Byte)
deriving DecidableEq, Repr

/-- The transmitter (R194): the whole frame being sent, and the line time it still needs, in tenths of a bit
time (a byte is 100). -/
inductive Transmitter where
  | idle
  | sending (frame : List Byte) (left : Nat)
deriving DecidableEq, Repr

inductive LinkRate where
  | baud57600
  | baud230400
deriving DecidableEq, Repr

structure LinkPort where
  receiver : Receiver
  /-- Remaining ms of the gap timer; none while stopped. -/
  gap : Option Nat
  inbound : List Request
  /-- The reply slot: the frame of the reply that waits (R193). -/
  slot : Option (List Byte)
  tx : Transmitter
  framingErrors : Nat
  checkErrors : Nat
  overruns : Nat
  rate : LinkRate
  /-- RST has been taken and its COMMAND reset has not yet taken effect (R186). -/
  rstTaken : Bool
deriving DecidableEq, Repr

/-! ## The whole part -/

/-- The records that a road event can change together: section table and interlock, convoy table, the lines with
their junction values, and the notice sources. -/
structure Road where
  sections : Table Section 64
  /-- Each convoy's waiting group request. -/
  requests : Table (Option GroupRequest) 8
  /-- The arrival count (R24). -/
  arrivals : Nat
  /-- The promotion list, earliest promoted first (R32). -/
  promotions : List ConvoyId
  settling : List SettlingRecord
  convoys : Table Convoy 8
  lines : Table Line 16
  notices : NoticeControl
deriving DecidableEq, Repr

/-- The model's time base (log entry 1). -/
structure TimeBase where
  /-- Milliseconds since the part left the reset. -/
  now : Nat
  /-- Milliseconds to the next frame start. -/
  frameDue : Nat
deriving DecidableEq, Repr

/-- Everything but the queue, the reset inputs and the link port. -/
structure Part where
  markers : MarkerScanner
  road : Road
  drivers : DriverPort
  cells : Table Cell 8
  pulses : ClockPulses
  composer : Composer
  clock : LayoutClock
  departures : Table Departure 8
  mode : ModeControl
  time : TimeBase
deriving DecidableEq, Repr

/-- Whether the part is held in reset, and what R185 needs to tell the cause. -/
structure ResetControl where
  held : Bool
  supplyUp : Bool
  /-- The supply has risen since the part last left a reset. -/
  supplyRisen : Bool
  /-- The reset input was asserted since the part last left a reset. -/
  lineAsserted : Bool
deriving DecidableEq, Repr

/-- The state of the machine: the commands that wait, first in first out, and the part. -/
structure State where
  pending : List Instr
  resets : ResetControl
  link : LinkPort
  part : Part
deriving DecidableEq, Repr

/-! ## Values after POWER_ON -/

/-- R6. -/
def Marker.fresh : Marker := { state := .unknown, since := none, lastPulse := none }

/-- R22, POWER_ON. -/
def Section.blank : Section :=
  { defn := none, status := .undefined, queue := [], earmark := none, settle := none }

/-- R92. -/
def HaltRecord.default : HaltRecord :=
  { enabled := 0x1F00, causes := 0, throttle := .neutral, lights := .hazard, restart := .manual, rearm := false }

/-- A VACANT convoy with every other field at the default of the table of 3.1 (R74). -/
def Convoy.vacant : Convoy :=
  { state := .vacant, members := [], priority := 4, source := .host, hostSpeed := 0, cruise := 30, ramp := 5,
    ttDemand := 0, lag := 3, gapMin := 150, gapMax := 400, trimStep := 2, route := [], lead := 0, tail := 0,
    furthest := 0, history := [], asked := none, halt := HaltRecord.default }

/-- R83. -/
def Handset.lost : Handset :=
  { throttle := 0, horn := false, halt := false, aux := false, presence := .lost }

def Gate.empty : Gate := { terms := Table.all .ignored, invert := false }

/-- R127, POWER_ON. -/
def Cell.blank : Cell :=
  { enabled := false, selectors := Table.all .always, gates := Table.all Gate.empty, fn := .andOr, invert := false,
    shotTime := 1000, riseNotice := false, fallNotice := false, latch := false, remaining := 0, last := none,
    reload := false, output := false }

/-- The table of 7.1, R145. -/
def Slot.blank : Slot :=
  { settings := { address := none, span := 400, brake := 200, deadFR := 500, deadRF := 500,
                  reverse := { throttle := false, coupler := false, lights := false, aux := false } },
    channels := { throttle := { mode := .fixed, value := 1500 }, coupler := { mode := .fixed, value := 1500 },
                  lights := { mode := .fixed, value := 1500 }, aux := { mode := .fixed, value := 1500 } },
    waiting := none, keyed := false, onAir := .offAir, direction := none, neutralSince := none, sent := none }

/-- The table of 8.1, with `wire` on the pin. -/
def Line.blank (wire : PinState) : Line :=
  { direction := .input, drive := .released, data := false, function := .data, invert := false, wake := false,
    flashPeriod := 1000, flashGate := 0, junction := false, flash := none, frozen := none, wire := wire }

/-- R174, POWER_ON. -/
def LayoutClock.blank : LayoutClock :=
  { day := 1, hour := 0, minute := 0, second := 0, fraction := 0, ratio := 1, running := false }

/-- The table of 9.3. -/
def Departure.blank : Departure :=
  { enabled := false, day := some 1, hour := some 0, minute := some 0, action := .signal, convoy := none,
    cruise := 30, ramp := 5, fired := false, missed := 0 }

/-- R204, before RESTARTED is raised. -/
def NoticeSource.fresh (enabled : Bool) : NoticeSource :=
  { pending := false, enabled := enabled, announced := false, priority := 4, subjects := 0 }

/-- The NTC of source 0 with tag 0, the first message after every reset (R204, R206, R207, R211). -/
def restartedFrame : List Byte :=
  [0xA6, 0x0B, 0x7E, 0x00, 0x00, 0x00, 0x00, 0x00, 0x00, 0x00, 0x00, 0x00, 0x00, 0x72, 0x26]

/-- The machine right after a POWER_ON reset is left, with the rate strap low and every pin LOW (log entry 5):
RESTARTED has been raised and its notice is on the line. -/
def State.reset : State :=
  { pending := [],
    resets := { held := false, supplyUp := true, supplyRisen := false, lineAsserted := false },
    link := { receiver := .hunt, gap := none, inbound := [], slot := none, tx := .sending restartedFrame 1500,
              framingErrors := 0, checkErrors := 0, overruns := 0, rate := .baud57600, rstTaken := false },
    part :=
      { markers := { time := 0, holdOff := 100, markers := Table.all Marker.fresh },
        road :=
          { sections := Table.all Section.blank, requests := Table.all none, arrivals := 0, promotions := [],
            settling := [], convoys := Table.all Convoy.vacant, lines := Table.all (Line.blank .low),
            notices :=
              { sources := Table.put (Table.all (NoticeSource.fresh false)) 0
                  { NoticeSource.fresh true with pending := true, announced := true },
                seq := 1 } },
        drivers := { handsets := Table.all Handset.lost, errors := 0 },
        cells := Table.all Cell.blank,
        pulses := { minute := false, quarter := false, hour := false },
        composer := { slots := Table.all Slot.blank, period := 22, interval := 22, frameTime := 0, airFrame := none },
        clock := LayoutClock.blank,
        departures := Table.all Departure.blank,
        mode := { mode := .hold, latch := false, slowLimit := 25, holdCell := none, driverWake := false,
                  cause := .powerOn },
        time := { now := 0, frameDue := 22 } } }

end Sys2Proof.Machine
end

