-- ==== Sys2Proof/Machine/Flags.lean ====
section
/-! DEFINITION. Status marks and counts: the notice sources (chapter 11.5, 11.6), saturating counts and due timers. -/

namespace Sys2Proof.Machine

/-- A count that saturates at `max` (00_scope.md section 5, Counts). -/
def countUp (max n : Nat) : Nat := if n < max then n + 1 else n

/-- A running timer with nothing left. -/
def timerDue (t : Option Nat) : Bool := t = some 0

/-! ## The sources by name (table of 11.5) -/

def srcRestarted : SourceId := 0
def srcLinkError : SourceId := 1
def srcModeChanged : SourceId := 2
def srcParkWake : SourceId := 3
def srcSectionFault : SourceId := 4
def srcStrayPulse : SourceId := 5
def srcConvoyHalted : SourceId := 6
def srcGrantPromoted : SourceId := 7
def srcConvoyArrived : SourceId := 8
def srcDepartureFired : SourceId := 9
def srcDepartureMissed : SourceId := 10
def srcDriverLost : SourceId := 11
def srcCellEdge (k : CellId) : SourceId := ⟨12 + k.val, by have := k.isLt; omega⟩
def srcSlotApplied : SourceId := 20

/-- The subject set that holds the number `k` alone. -/
def subject (k : Nat) : BitVec 64 := BitVec.twoPow 64 k

/-- A raise (R197): the source becomes pending and its subject set gains the given numbers. -/
def NoticeSource.raised (subjects : BitVec 64) (n : NoticeSource) : NoticeSource :=
  { n with pending := true, subjects := n.subjects ||| subjects }

/-- What CLN makes of a listed source (R202). -/
def NoticeSource.cleared (n : NoticeSource) : NoticeSource :=
  { n with pending := false, announced := false, subjects := 0 }

/-- R199. -/
def NoticeSource.announceable (n : NoticeSource) : Bool := n.pending && n.enabled && !n.announced

def NoticeControl.raise (src : SourceId) (subjects : BitVec 64) (c : NoticeControl) : NoticeControl :=
  { c with sources := Table.upd c.sources src (NoticeSource.raised subjects) }

/-- The announceable source with the highest priority, and of equal ones the lowest number (R199). -/
def NoticeControl.next? (c : NoticeControl) : Option SourceId :=
  (Table.numbers c.sources NoticeSource.announceable).foldl
    (fun best i =>
      match best with
      | none => some i
      | some b => if (Table.at c.sources b).priority < (Table.at c.sources i).priority then some i else some b)
    none

/-- The start of a source's NTC: announced is set and the sequence number rises, 255 to 0 (R199). -/
def NoticeControl.announce (src : SourceId) (c : NoticeControl) : NoticeControl :=
  { sources := Table.upd c.sources src fun n => { n with announced := true }, seq := c.seq + 1 }

/-- The notice state right after a reset, RESTARTED raised (R204). -/
def NoticeControl.restarted : NoticeControl :=
  NoticeControl.raise srcRestarted 0
    { sources := Table.put (Table.all (NoticeSource.fresh false)) srcRestarted (NoticeSource.fresh true), seq := 0 }

end Sys2Proof.Machine
end

