-- ==== Sys2Proof/Machine/Ops.lean ====
section
/-! DEFINITION. Named operations over the records: reading and writing one record of a table, what a section's holding
is, a convoy's steps, an accessory line's values, and the park hold. -/

namespace Sys2Proof.Machine

/-! ## Records of the road -/

def Road.sect (r : Road) (i : SectionId) : Section := Table.at r.sections i
def Road.setSect (r : Road) (i : SectionId) (v : Section) : Road := { r with sections := Table.put r.sections i v }
def Road.convoy (r : Road) (c : ConvoyId) : Convoy := Table.at r.convoys c
def Road.setConvoy (r : Road) (c : ConvoyId) (v : Convoy) : Road := { r with convoys := Table.put r.convoys c v }
def Road.line (r : Road) (l : LineId) : Line := Table.at r.lines l
def Road.setLine (r : Road) (l : LineId) (v : Line) : Road := { r with lines := Table.put r.lines l v }
def Road.request (r : Road) (c : ConvoyId) : Option GroupRequest := Table.at r.requests c
def Road.setRequest (r : Road) (c : ConvoyId) (v : Option GroupRequest) : Road :=
  { r with requests := Table.put r.requests c v }

/-- A raise of a notice source by a block (R197). -/
def Road.raise (src : SourceId) (subjects : BitVec 64) (r : Road) : Road :=
  { r with notices := r.notices.raise src subjects }

/-- The subject set of a list of numbers. -/
def subjectsOf (ks : List Nat) : BitVec 64 := ks.foldl (fun m k => m ||| subject k) 0

/-- A raise for a set of numbers, if there is any. -/
def Road.raiseAll (src : SourceId) (ks : List Nat) (r : Road) : Road :=
  if ks.isEmpty then r else r.raise src (subjectsOf ks)

/-! ## Sections -/

/-- The holding of a section that has a holder (R7). -/
def SectionStatus.holding : SectionStatus → Option Holding
  | .undefined => none
  | .out _ => none
  | .free => none
  | .granted h => some h
  | .occupied h => some h
  | .fault _ h => h

def SectionStatus.isFault : SectionStatus → Bool
  | .fault _ _ => true
  | _ => false

/-- Whether the section is held by convoy `c`. -/
def Section.heldBy (v : Section) (c : ConvoyId) : Bool :=
  match v.status.holding with
  | some h => h.convoy = c
  | none => false

/-- The entry end's marker for a passage direction; none where the section has no such end (R8). -/
def SectionDef.entryMarker (d : SectionDef) : Dir → Option MarkerId
  | .aToB => some d.endA
  | .bToA => d.endB

def SectionDef.exitMarker (d : SectionDef) : Dir → Option MarkerId
  | .aToB => d.endB
  | .bToA => some d.endA

def SectionDef.names (d : SectionDef) (m : MarkerId) : Bool := d.endA = m || d.endB = some m

/-- The sections convoy `c` holds, ascending. -/
def Road.heldSections (r : Road) (c : ConvoyId) : List SectionId :=
  Table.numbers r.sections fun v => v.heldBy c

/-! ## Convoys -/

def ConvoyState.formed : ConvoyState → Bool
  | .vacant => false
  | _ => true

def ConvoyState.isHalted : ConvoyState → Bool
  | .halted _ => true
  | _ => false

/-- The state a convoy has, or will return to (R71). -/
def ConvoyState.base? : ConvoyState → Option BaseState
  | .vacant => none
  | .plain b => some b
  | .halted b => some b

/-- A change of a convoy's state, applied to the return state while it is HALTED (R71). -/
def ConvoyState.mapBase (f : BaseState → BaseState) : ConvoyState → ConvoyState
  | .vacant => .vacant
  | .plain b => .plain (f b)
  | .halted b => .halted (f b)

/-- RUNNING or WAITING, or HALTED with one of these as return state (R177). -/
def ConvoyState.active (s : ConvoyState) : Bool := s.base? = some .waiting || s.base? = some .running

def Convoy.memberCount (v : Convoy) : Nat := v.members.length

/-- Index of the last route step. -/
def Convoy.lastStep (v : Convoy) : Nat := v.route.length - 1

/-- A step is held when its status is SETTLING or HELD (R51). -/
def RouteStep.isHeld (t : RouteStep) : Bool := t.status = .settling || t.status = .held

def stepNumbersFrom (f : RouteStep → Bool) : Nat → List RouteStep → List Nat
  | _, [] => []
  | n, t :: ts => if f t then n :: stepNumbersFrom f (n + 1) ts else stepNumbersFrom f (n + 1) ts

/-- The numbers of the steps that meet `f`, ascending. -/
def Convoy.stepNumbers (v : Convoy) (f : RouteStep → Bool) : List Nat := stepNumbersFrom f 0 v.route

/-- Tail and furthest held index from the step statuses and the lead (R51). -/
def Convoy.reindex (v : Convoy) : Convoy :=
  let held := v.stepNumbers RouteStep.isHeld
  let tail := (held.find? fun k => k ≤ v.lead).getD v.lead
  { v with tail := tail, furthest := held.getLast?.getD tail }

def mapStepsFrom (f : Nat → RouteStep → RouteStep) : Nat → List RouteStep → List RouteStep
  | _, [] => []
  | n, t :: ts => f n t :: mapStepsFrom f (n + 1) ts

/-- Changes step statuses, and recomputes the indices as R51 asks at each such change. -/
def Convoy.mapSteps (v : Convoy) (f : Nat → RouteStep → RouteStep) : Convoy :=
  { v with route := mapStepsFrom f 0 v.route }.reindex

/-- Gives status `b` to the steps from `first` to `last` that have status `a`. -/
def Convoy.restatus (v : Convoy) (first last : Nat) (a b : StepStatus) : Convoy :=
  v.mapSteps fun n t => if first ≤ n && n ≤ last && t.status = a then { t with status := b } else t

def Convoy.setLead (v : Convoy) (k : Nat) : Convoy := { v with lead := k }.reindex

/-- The held step that names the section, if there is one (R64). -/
def Convoy.heldStepOf (v : Convoy) (i : SectionId) : Option Nat :=
  (v.stepNumbers fun t => t.isHeld && t.sec = i).head?

/-- Status of the step after the lead; none at the last step. -/
def Convoy.nextStatus (v : Convoy) : Option StepStatus := v.route[v.lead + 1]?.map RouteStep.status

/-- The test of R63: the lead is at the last step, or the step after it is HELD. -/
def Convoy.mayRun (v : Convoy) : Bool :=
  match v.nextStatus with
  | none => true
  | some t => t = .held

/-- Whether a step beyond the lead is held. -/
def Convoy.holdsBeyondLead (v : Convoy) : Bool := (v.stepNumbers RouteStep.isHeld).any fun k => v.lead < k

/-- The demand history filled with lag × (member count − 1) zeros (R84). -/
def Convoy.refilled (v : Convoy) : Convoy :=
  { v with history := List.replicate (v.lag * (v.memberCount - 1)) 0 }

/-- Where a slot stands: its convoy and its member position, the lead at 0 (R50). -/
def Road.placeOf (r : Road) (i : SlotId) : Option (ConvoyId × Nat) :=
  (List.finRange 8).findSome? fun c =>
    ((r.convoy c).members.findIdx? fun m => m.slot = i).map fun k => (c, k)

/-! ## Park hold and accessory lines -/

/-- In effect while the mode is PARK and while the park latch is set (R175). -/
def ModeControl.parkHold (m : ModeControl) : Bool := m.mode = .park || m.latch

/-- The pin state of a logical value (R146). -/
def pinOf (invert level : Bool) : PinState := if level != invert then .high else .low

/-- The logical value of a pin state (R146). -/
def levelOf (invert : Bool) (p : PinState) : Bool := (p = .high) != invert

/-- R146: driven when it is an ENABLED output outside the park hold, or holds a frozen value. -/
def Line.driven (hold : Bool) (l : Line) : Bool :=
  l.frozen.isSome || (!hold && l.direction = .output && l.drive = .enabled)

/-- The driven value of an OUTPUT line (R148), from the outputs of the cells. -/
def Line.drivenValue (cells : Table Cell 8) (l : Line) : Bool :=
  match l.function with
  | .data => l.data
  | .junction => l.junction
  | .cell k => (Table.at cells k).output
  | .flash =>
    match l.flash with
    | some p => if (Table.at cells l.flashGate).output then p.phase else l.data
    | none => l.data

/-- The level of a line (R146). -/
def Line.level (hold : Bool) (cells : Table Cell 8) (l : Line) : Bool :=
  match l.frozen with
  | some f => f.level
  | none => if l.driven hold then l.drivenValue cells else levelOf l.invert l.wire

/-- What the line puts on its pin; none while it is not driven (R146). -/
def Line.pinOut (hold : Bool) (cells : Table Cell 8) (l : Line) : Option PinState :=
  match l.frozen with
  | some f => some f.pin
  | none => if l.driven hold then some (pinOf l.invert (l.drivenValue cells)) else none

/-- A flash phase that starts at 1, with the first toggle one half-period later (R151). -/
def Line.startFlash (l : Line) : Line := { l with flash := some { phase := true, left := l.flashPeriod / 2 } }

def Line.stopFlash (l : Line) : Line := { l with flash := none }

def Part.parkHold (p : Part) : Bool := p.mode.parkHold

end Sys2Proof.Machine
end

