-- ==== Sys2Proof/Machine/Arbiter.lean ====
section
/-! DEFINITION. The grant arbiter and the settling of grants (chapter 2), with the two reports it makes to the convoy
engine (R62, R63). -/

namespace Sys2Proof.Machine

/-! ## Grant report and settled report -/

/-- R62: the REQUESTED steps of the group become SETTLING and the pending request is removed. -/
def Convoy.granted (first last : Nat) (v : Convoy) : Convoy :=
  { v.restatus first last .requested .settling with asked := none }

def grantReport (c : ConvoyId) (first last : Nat) (r : Road) : Road :=
  r.setConvoy c ((r.convoy c).granted first last)

/-- WAITING becomes RUNNING where the test of R63 allows it. -/
def Convoy.runIfClear (v : Convoy) : Convoy :=
  if v.mayRun then { v with state := v.state.mapBase fun b => if b = .waiting then .running else b } else v

/-- R63: the SETTLING steps become HELD, and a WAITING convoy may become RUNNING. -/
def Convoy.settled (first last : Nat) (v : Convoy) : Convoy := (v.restatus first last .settling .held).runIfClear

def settledReport (c : ConvoyId) (first last : Nat) (r : Road) : Road :=
  r.setConvoy c ((r.convoy c).settled first last)

/-! ## Settling records (R38, R39) -/

def Road.timerRuns (r : Road) (i : SectionId) : Bool := (r.sect i).settle.isSome

/-- Makes the settled reports of the records in which no timer runs any more, and removes those records and the empty
ones (R39). -/
def reviewSettling (r : Road) : Road :=
  let ended := r.settling.filter fun t => !t.sections.isEmpty && !t.sections.any r.timerRuns
  let kept := r.settling.filter fun t => t.sections.any r.timerRuns
  ended.foldl (fun r t => settledReport t.convoy t.first t.last r) { r with settling := kept }

def stopTimer (i : SectionId) (r : Road) : Road := r.setSect i { r.sect i with settle := none }

/-- The settle timers of the given sections are cancelled, and the sections leave their settling records (R38, R39). -/
def leaveRecords (secs : List SectionId) (r : Road) : Road :=
  let r := secs.foldl (fun r i => stopTimer i r) r
  { r with settling := r.settling.map fun t => { t with sections := t.sections.filter fun i => !secs.contains i } }

/-- The given sections leave their holder, and only when all have left are the records judged (R39, R41, R43; log entries 32
and 43). -/
def leaveHolder (secs : List SectionId) (r : Road) : Road := reviewSettling (leaveRecords secs r)

/-! ## Earmarks (R33) -/

/-- The convoy a FREE, unearmarked section is earmarked for: the earliest on the promotion list that waits there. -/
def Section.earmarkFor (promotions : List ConvoyId) (v : Section) : Option ConvoyId :=
  match v.earmark with
  | some c => some c
  | none => if v.status = .free then promotions.find? fun c => v.queue.contains c else none

def placeEarmarks (r : Road) : Road :=
  { r with sections := Table.mapAll (fun _ v => { v with earmark := v.earmarkFor r.promotions }) r.sections }

/-! ## Choosing (R28, R30) -/

def GroupRequest.last (q : GroupRequest) : Nat := q.first + q.legs.length - 1

def GroupRequest.names (q : GroupRequest) (i : SectionId) : Bool := q.legs.any fun l => l.sec = i

/-- The promoted request of convoy `x` names a section that convoy `c` holds (R28, third case; R29). -/
def Road.exempt (r : Road) (c x : ConvoyId) : Bool :=
  match r.request x with
  | some q => q.promoted && q.legs.any fun l => (r.sect l.sec).heldBy c
  | none => false

/-- One section of a grantable group (R28). -/
def Road.legFree (r : Road) (c : ConvoyId) (l : Leg) : Bool :=
  (r.sect l.sec).status = .free &&
    match (r.sect l.sec).earmark with
    | none => true
    | some x => x = c || r.exempt c x

def Road.grantable (r : Road) (c : ConvoyId) (q : GroupRequest) : Bool := q.legs.all (r.legFree c)

/-- Whether request `a` of convoy `ca` goes before request `b` of convoy `cb` (R30). -/
def Road.goesBefore (r : Road) (ca : ConvoyId) (a : GroupRequest) (cb : ConvoyId) (b : GroupRequest) : Bool :=
  if a.promoted != b.promoted then a.promoted
  else if (r.convoy ca).priority ≠ (r.convoy cb).priority then (r.convoy cb).priority < (r.convoy ca).priority
  else a.arrival < b.arrival

/-- The waiting requests with their convoys, in convoy order. -/
def Road.waiting (r : Road) : List (ConvoyId × GroupRequest) :=
  (Table.entries r.requests).filterMap fun e => e.2.map fun q => (e.1, q)

/-- The request the arbiter chooses among the grantable ones (R30). -/
def Road.choice (r : Road) : Option (ConvoyId × GroupRequest) :=
  (r.waiting.filter fun e => r.grantable e.1 e.2).foldl
    (fun best e =>
      match best with
      | none => some e
      | some b => if r.goesBefore e.1 e.2 b.1 b.2 then some e else some b)
    none

/-! ## The grant (R35, R36, R37) -/

/-- One section of the group becomes GRANTED to the convoy (R35). -/
def grantLeg (c : ConvoyId) (l : Leg) (r : Road) : Road :=
  let v := r.sect l.sec
  r.setSect l.sec
    { v with status := .granted { convoy := c, dir := l.dir, entered := 0, exited := 0, log := [] },
             earmark := none, queue := v.queue.filter fun x => x ≠ c }

/-- Sets the junction value of one section of the group, and starts its settle timer if the points move (R36). -/
def setJunction (l : Leg) (r : Road) : Road :=
  match (r.sect l.sec).defn.bind SectionDef.junction with
  | none => r
  | some j =>
    let want := l.branch = .turn
    if l.branch = .plain || (r.line j.line).junction = want then r
    else
      let r := r.setLine j.line { r.line j.line with junction := want }
      if j.settle = 0 then r else r.setSect l.sec { r.sect l.sec with settle := some j.settle }

/-- A grant with its reports: settled at once, or with a settling record (R35 to R37). -/
def grant (c : ConvoyId) (q : GroupRequest) (r : Road) : Road :=
  let r := q.legs.foldl (fun r l => grantLeg c l r) r
  let r := { r.setRequest c none with promotions := r.promotions.filter fun x => x ≠ c }
  let r := q.legs.foldl (fun r l => setJunction l r) r
  let r := grantReport c q.first q.last r
  if q.legs.any fun l => r.timerRuns l.sec then
    { r with settling :=
        r.settling ++ [{ convoy := c, first := q.first, last := q.last, sections := q.legs.map Leg.sec }] }
  else settledReport c q.first q.last r

/-! ## Passed over and promoted (R31, R32) -/

/-- A waiting request after the grant of request `g` (R31). -/
def GroupRequest.passedOver (g q : GroupRequest) : GroupRequest :=
  if q.arrival < g.arrival && q.legs.any (fun l => g.names l.sec) then { q with passed := min 7 (q.passed + 1) } else q

def passOver (g : GroupRequest) (r : Road) : Road :=
  { r with requests := Table.mapAll (fun _ o => o.map (GroupRequest.passedOver g)) r.requests }

/-- The smallest patience among the sections of the group (R32). -/
def Road.leastPatience (r : Road) (q : GroupRequest) : Nat :=
  q.legs.foldl (fun n l => match (r.sect l.sec).defn with | some d => min n d.patience | none => n) 7

def insertByArrival (e : ConvoyId × GroupRequest) : List (ConvoyId × GroupRequest) → List (ConvoyId × GroupRequest)
  | [] => [e]
  | x :: xs => if e.2.arrival ≤ x.2.arrival then e :: x :: xs else x :: insertByArrival e xs

/-- The requests that reach their patience now, in order of arrival number (R32). -/
def Road.duePromotions (r : Road) : List (ConvoyId × GroupRequest) :=
  (r.waiting.filter fun e => !e.2.promoted && r.leastPatience e.2 ≤ e.2.passed).foldr insertByArrival []

def promoteOne (e : ConvoyId × GroupRequest) (r : Road) : Road :=
  let r := r.setRequest e.1 (some { e.2 with promoted := true })
  Road.raise srcGrantPromoted (subject e.1.val) { r with promotions := r.promotions ++ [e.1] }

/-- Promotions, each with its notice, and then the earmarks they place (R32, R33). -/
def promote (r : Road) : Road := placeEarmarks (r.duePromotions.foldl (fun r e => promoteOne e r) r)

/-! ## The pass (R27) -/

/-- Grants until no request is grantable. Each grant removes one of at most eight requests, so `fuel` 8 is enough. -/
def passLoop : Nat → Road → Road
  | 0, r => r
  | fuel + 1, r =>
    match r.choice with
    | none => r
    | some (c, q) => passLoop fuel (promote (passOver q (grant c q r)))

/-- An arbitration pass. -/
def arbitrate (r : Road) : Road := passLoop 8 (placeEarmarks r)

/-! ## Arrival, withdrawal and hand-back -/

/-- The waiting requests renumbered from 0 in the order of their arrival numbers (R24). -/
def renumber (r : Road) : Road :=
  let before := fun (q : GroupRequest) => (r.waiting.filter fun e => e.2.arrival < q.arrival).length
  { r with requests := Table.mapAll (fun _ o => o.map fun q => { q with arrival := before q }) r.requests,
           arrivals := r.waiting.length }

/-- A group request arrives: it takes its arrival number, joins the queues of its sections, and a pass runs (R23, R24,
R25). -/
def arrive (c : ConvoyId) (first : Nat) (legs : List Leg) (r : Road) : Road :=
  let r := if r.arrivals = 65535 then renumber r else r
  let q : GroupRequest := { first := first, legs := legs, arrival := r.arrivals, passed := 0, promoted := false }
  let r := { r.setRequest c (some q) with arrivals := r.arrivals + 1 }
  arbitrate (legs.foldl (fun r l => r.setSect l.sec { r.sect l.sec with queue := (r.sect l.sec).queue ++ [c] }) r)

/-- A section after convoy `c`'s request has been withdrawn (R42). -/
def Section.without (c : ConvoyId) (v : Section) : Section :=
  { v with queue := v.queue.filter fun x => x ≠ c, earmark := if v.earmark = some c then none else v.earmark }

/-- Withdrawal of a convoy's group request; that of a promoted one starts a pass (R42). -/
def withdraw (c : ConvoyId) (r : Road) : Road :=
  match r.request c with
  | none => r
  | some q =>
    let r := { r.setRequest c none with
                 promotions := r.promotions.filter fun x => x ≠ c,
                 sections := Table.mapAll (fun _ v => v.without c) r.sections }
    if q.promoted then arbitrate r else r

/-- A held section becomes FREE: holder, direction, counts and log go (R18, R43). -/
def freeSection (i : SectionId) (r : Road) : Road := r.setSect i { r.sect i with status := .free }

end Sys2Proof.Machine
end

