-- ==== Sys2Proof/Machine/Engine.lean ====
section
/-! DEFINITION. The convoy engine: asking for groups, and the reports it takes from the road interlock (3.5, 3.6, 4.4). -/

namespace Sys2Proof.Machine

def Road.updConvoy (r : Road) (c : ConvoyId) (f : Convoy → Convoy) : Road := r.setConvoy c (f (r.convoy c))

/-- A change of the convoy's state, or of its return state while HALTED (R71). -/
def setBase (f : BaseState → BaseState) (v : Convoy) : Convoy := { v with state := v.state.mapBase f }

/-- RUNNING becomes WAITING. -/
def stopRunning (b : BaseState) : BaseState := if b = .running then .waiting else b

/-- WAITING and RUNNING become STANDING (R60). -/
def standStill (b : BaseState) : BaseState := if b = .running || b = .waiting then .standing else b

/-! ## Asking for a group (R23, R59, R65) -/

/-- The run of linked steps from the head of the list, ended before a held step (R23, R65). -/
def groupRun : List RouteStep → List RouteStep
  | [] => []
  | t :: ts =>
    if t.link && !(match ts with | [] => true | u :: _ => u.isHeld) then t :: groupRun ts else [t]

def RouteStep.leg (t : RouteStep) : Leg := { sec := t.sec, dir := t.dir, branch := t.branch }

/-- The pending request is withdrawn, and its REQUESTED steps become AHEAD (R42, R60, R64). -/
def withdrawAsked (c : ConvoyId) (r : Road) : Road :=
  let r := match (r.convoy c).asked with
    | some (a, b) => r.updConvoy c fun v => { v.restatus a b .requested .ahead with asked := none }
    | none => r
  withdraw c r

/-- Marks the group REQUESTED and records it as the pending request (R59). -/
def Convoy.markAsked (first last : Nat) (v : Convoy) : Convoy :=
  { v.mapSteps (fun n t => if first ≤ n && n ≤ last then { t with status := .requested } else t) with
      asked := some (first, last) }

/-- The engine asks for the group that starts at step `first` (R23, R65). -/
def ask (c : ConvoyId) (first : Nat) (r : Road) : Road :=
  let r := withdrawAsked c r
  match groupRun ((r.convoy c).route.drop first) with
  | [] => r
  | run => arrive c first (run.map RouteStep.leg) (r.updConvoy c (Convoy.markAsked first (first + run.length - 1)))

/-- A STANDING convoy starts: it becomes WAITING and asks for the group after its lead (R59, R168). -/
def startConvoy (c : ConvoyId) (r : Road) : Road :=
  let r := r.updConvoy c (setBase fun _ => .waiting)
  ask c ((r.convoy c).lead + 1) r

/-- What R64 does after the lead has moved, by the status of the step after it. A LOST step after the lead cannot arise
(log entry 35). -/
def leadChecks (c : ConvoyId) (r : Road) : Road :=
  let v := r.convoy c
  match v.nextStatus with
  | none => r
  | some .held => r
  | some .ahead => if v.state.active then ask c (v.lead + 1) (r.updConvoy c (setBase stopRunning)) else r
  | some .settling => r.updConvoy c (setBase stopRunning)
  | some .requested => r.updConvoy c (setBase stopRunning)
  | some .done => r.updConvoy c (setBase stopRunning)
  | some .lost => r.updConvoy c (setBase stopRunning)

/-! ## Arrival (R66) -/

/-- Whether the last step's section, held by the convoy, has counted every member in. -/
def Road.allArrived (r : Road) (c : ConvoyId) : Bool :=
  let v := r.convoy c
  match v.route[v.lastStep]? with
  | none => false
  | some t =>
    match (r.sect t.sec).status.holding with
    | some h => h.convoy = c && h.entered = v.memberCount
    | none => false

/-- The arrival test with its effects (log entry 33). An ARRIVED convoy has no pending request: one for earlier steps is
withdrawn (R66, log entry 44). -/
def arrivalTest (c : ConvoyId) (r : Road) : Road :=
  if r.allArrived c then
    Road.raise srcConvoyArrived (subject c.val) ((withdrawAsked c r).updConvoy c (setBase fun _ => .arrived))
  else r

/-- The arrival test where step `k` is the last one. -/
def arrivalTestAt (c : ConvoyId) (k : Nat) (r : Road) : Road :=
  if k = (r.convoy c).lastStep then arrivalTest c r else r

/-! ## Gap check (R89, R90) -/

def clampTrim (t : Int) : Int := if t < -8 then -8 else if 8 < t then 8 else t

/-- The gap check of member `k` with the gap and its entry's marker time (R90). -/
def Convoy.gapChecked (k : Nat) (gap : Nat) (time : Half) (v : Convoy) : Convoy :=
  let move : Int := if gap < v.gapMin then -1 else if v.gapMax < gap then 1 else 0
  { v with members := v.members.modify (k - 1) fun m => { m with trim := clampTrim (m.trim + move), lastGap := some time } }

/-- The entry time of a member in a log (R89, third condition). -/
def logTime (log : List LogEntry) (k : Nat) : Option Half := (log.find? fun e => e.member = k).map LogEntry.time

/-- The gap check for the entry of member `k`, made where the three conditions of R89 hold. `before` is the convoy as it
was when the pulse came. -/
def gapCheck (before : Convoy) (c : ConvoyId) (i : SectionId) (k : Nat) (time : Half) (r : Road) : Road :=
  if before.state = .plain .running && !before.halt.rearm && 2 ≤ k then
    match (r.sect i).status.holding with
    | some h =>
      match logTime h.log (k - 1) with
      | some t => r.updConvoy c (Convoy.gapChecked k (time - t).toNat time)
      | none => r
    | none => r
  else r

/-! ## Reports -/

/-- R64: member 1 enters the section of step `k`; the lead moves if the step is above it. -/
def leadEntry (c : ConvoyId) (k : Nat) (r : Road) : Road :=
  if (r.convoy c).lead < k then leadChecks c (r.updConvoy c fun v => v.setLead k) else r

/-- A counted entry (R64, R66, R89). -/
def entryReport (before : Convoy) (c : ConvoyId) (i : SectionId) (member : Nat) (time : Half) (r : Road) : Road :=
  match (r.convoy c).heldStepOf i with
  | none => r
  | some k =>
    let r := if member = 1 then leadEntry c k r else gapCheck before c i member time r
    arrivalTestAt c k r

/-- The lead is raised to the lowest held step when the convoy holds nothing at or below it (R67). -/
def raiseLead (c : ConvoyId) (r : Road) : Road :=
  let v := r.convoy c
  match v.stepNumbers RouteStep.isHeld with
  | [] => r
  | k :: _ => if v.lead < k then arrivalTestAt c k (leadChecks c (r.updConvoy c fun v => v.setLead k)) else r

/-- A release (R67). That SRST releases the step after the lead of a RUNNING convoy which still holds its lead step leaves the
convoy RUNNING, the model's choice (log entry 45). -/
def releaseReport (c : ConvoyId) (i : SectionId) (r : Road) : Road :=
  match (r.convoy c).heldStepOf i with
  | none => r
  | some k =>
    raiseLead c (r.updConvoy c fun v => v.mapSteps fun n t => if n = k then { t with status := .done } else t)

/-- A restoration by SRST that leaves the section held (R68). -/
def restorationReport (c : ConvoyId) (i : SectionId) (entered : Nat) (r : Road) : Road :=
  match (r.convoy c).heldStepOf i with
  | none => r
  | some k => arrivalTestAt c k (if 1 ≤ entered then leadEntry c k r else r)

/-- The held steps above the lead are handed back; each whose section becomes FREE becomes AHEAD, and one pass runs if any
did (R43, R60, R69; log entry 43). -/
def handBack (c : ConvoyId) (r : Road) : Road :=
  let v := r.convoy c
  let named := (v.route.drop (v.lead + 1)).filter RouteStep.isHeld |>.map RouteStep.sec
  let freed := named.filter fun i =>
    match (r.sect i).status with
    | .granted h => h.convoy = c
    | _ => false
  let r := freed.foldl (fun r i => freeSection i r) r
  let r := r.updConvoy c fun v => v.mapSteps fun n t =>
    if v.lead < n && t.isHeld && freed.contains t.sec then { t with status := .ahead } else t
  let r := leaveHolder freed r
  if freed.isEmpty then r else arbitrate r

/-- After the repair of R69: the convoy asks for the group after its lead, or runs if that step is HELD. -/
def afterLoss (c : ConvoyId) (r : Road) : Road :=
  let v := r.convoy c
  if v.state.active then
    let r := r.updConvoy c (setBase fun _ => .waiting)
    match v.nextStatus with
    | some .ahead => ask c (v.lead + 1) r
    | _ => r.updConvoy c Convoy.runIfClear
  else r

/-- The forced loss of a section (R69, R70). The road interlock has already made it OUT. -/
def forcedLoss (c : ConvoyId) (i : SectionId) (r : Road) : Road :=
  match (r.convoy c).heldStepOf i with
  | none => r
  | some j =>
    let mark := fun (st : StepStatus) (v : Convoy) =>
      v.mapSteps fun n t => if n = j then { t with status := st } else t
    if (r.convoy c).lead < j then
      afterLoss c (handBack c ((withdrawAsked c r).updConvoy c (mark .ahead)))
    else r.updConvoy c (mark .lost)

end Sys2Proof.Machine
end

