-- ==== Sys2Proof/Machine/Operands.lean ====
section
/-! DEFINITION. The operand forms of the requests and the bytes of replies, frames and notices, as chapter 12 lays them
out. A reader `read…` answers none where the body's length does not fit (BADLEN, R192); the values it gives are raw, and the
owning block checks them (R210). -/

namespace Sys2Proof.Machine

/-! ## Numbers, flags and codes in bytes -/

def b8 (n : Nat) : Byte := BitVec.ofNat 8 n

/-- A number of two bytes, high byte first (R205). -/
def halfBytes (n : Nat) : List Byte := [b8 (n / 256), b8 n]

def halfOf (hi lo : Byte) : Nat := hi.toNat * 256 + lo.toNat

/-- A one-byte reply field that may be none (R212). -/
def optB (o : Option Nat) : List Byte := [(o.map b8).getD 0xFF]

/-- A two-byte reply field that may be none (R212). -/
def optH (o : Option Nat) : List Byte := (o.map halfBytes).getD [0xFF, 0xFF]

/-- A flag or mark: 0 for clear, 1 for set (R210, log entry 14). -/
def flagB (b : Bool) : Byte := if b then 1 else 0

/-- A list in a reply: a count byte, then the entries (R212). -/
def listB {α : Type} (f : α → List Byte) (xs : List α) : List Byte := b8 xs.length :: xs.flatMap f

/-- A bit map of `n` bytes, high byte first (R212). -/
def mapB (n v : Nat) : List Byte := (List.range n).reverse.map fun i => b8 (v / 256 ^ i)

/-- A signed byte in two's complement (R210). -/
def signedB (i : Int) : Byte := BitVec.ofInt 8 i

/-- A field that may be none: 0xFF is none (R210). -/
def noneOr (n : Nat) : Option Nat := if n = 0xFF then none else some n

def flagOf? : Nat → Option Bool
  | 0 => some false
  | 1 => some true
  | _ => none

def dirCode : Dir → Nat
  | .aToB => 0
  | .bToA => 1

def dirOf? : Nat → Option Dir
  | 0 => some .aToB
  | 1 => some .bToA
  | _ => none

def travelCode : Travel → Nat
  | .forward => 0
  | .reverse => 1

def travelOf? : Nat → Option Travel
  | 0 => some .forward
  | 1 => some .reverse
  | _ => none

def branchCode : Branch → Nat
  | .plain => 0
  | .straight => 1
  | .turn => 2

def branchOf? : Nat → Option Branch
  | 0 => some .plain
  | 1 => some .straight
  | 2 => some .turn
  | _ => none

/-- Position in the record's list UNDEFINED, ONE_WAY, TWO_WAY, DOCK (R210, log entry 15). -/
def sectionKindCode : SectionKind → Nat
  | .oneWay => 1
  | .twoWay => 2
  | .dock => 3

def sectionKindOf? : Nat → Option SectionKind
  | 1 => some .oneWay
  | 2 => some .twoWay
  | 3 => some .dock
  | _ => none

def sectionStatusCode : SectionStatus → Nat
  | .undefined => 0
  | .out _ => 1
  | .free => 2
  | .granted _ => 3
  | .occupied _ => 4
  | .fault _ _ => 5

def outCauseCode : OutCause → Nat
  | .reset => 0
  | .host => 1
  | .disbanded => 2

def faultCauseCode : FaultCause → Nat
  | .countOver => 0
  | .countUnder => 1
  | .stray => 2

def holdOffCode : HoldOff → Nat
  | .unknown => 0
  | .active => 1
  | .settling => 2
  | .armed => 3

def baseStateCode : BaseState → Nat
  | .standing => 1
  | .waiting => 2
  | .running => 3
  | .arrived => 5

/-- Position in the list VACANT, STANDING, WAITING, RUNNING, HALTED, ARRIVED of 3.1. -/
def convoyStateCode : ConvoyState → Nat
  | .vacant => 0
  | .plain b => baseStateCode b
  | .halted _ => 4

/-- Position in the return state's own list STANDING, WAITING, RUNNING, ARRIVED of 3.1. -/
def returnStateCode : BaseState → Nat
  | .standing => 0
  | .waiting => 1
  | .running => 2
  | .arrived => 3

def stepStatusCode : StepStatus → Nat
  | .ahead => 0
  | .requested => 1
  | .settling => 2
  | .held => 3
  | .done => 4
  | .lost => 5

/-- The code and the number of a demand source (R210, R211); 0xFF stands for no number (log entry 48). -/
def demandSourceBytes : DemandSource → List Byte
  | .host => [0, 0xFF]
  | .timetable => [1, 0xFF]
  | .driver d => [2, b8 d.val]

def demandSourceOf? (code num : Nat) : Option DemandSource :=
  match code with
  | 0 => some .host
  | 1 => some .timetable
  | 2 => (index? 8 num).map .driver
  | _ => none

def throttleActionCode : ThrottleAction → Nat
  | .neutral => 0
  | .brake => 1
  | .holdLast => 2
  | .release => 3

def throttleActionOf? : Nat → Option ThrottleAction
  | 0 => some .neutral
  | 1 => some .brake
  | 2 => some .holdLast
  | 3 => some .release
  | _ => none

def lightsActionCode : LightsAction → Nat
  | .hazard => 0
  | .on => 1
  | .off => 2
  | .unchanged => 3

def lightsActionOf? : Nat → Option LightsAction
  | 0 => some .hazard
  | 1 => some .on
  | 2 => some .off
  | 3 => some .unchanged
  | _ => none

def restartModeCode : RestartMode → Nat
  | .auto => 0
  | .manual => 1

def restartModeOf? : Nat → Option RestartMode
  | 0 => some .auto
  | 1 => some .manual
  | _ => none

def modeCode : Mode → Nat
  | .run => 0
  | .slow => 1
  | .hold => 2
  | .park => 3

def modeOf? : Nat → Option Mode
  | 0 => some .run
  | 1 => some .slow
  | 2 => some .hold
  | 3 => some .park
  | _ => none

def cellFnCode : CellFn → Nat
  | .andOr => 0
  | .orXor => 1
  | .allFour => 2
  | .setReset => 3
  | .toggle => 4
  | .oneShot => 5

def cellFnOf? : Nat → Option CellFn
  | 0 => some .andOr
  | 1 => some .orXor
  | 2 => some .allFour
  | 3 => some .setReset
  | 4 => some .toggle
  | 5 => some .oneShot
  | _ => none

def termCode : Term → Nat
  | .ignored => 0
  | .asRead => 1
  | .inverted => 2

def termOf? : Nat → Option Term
  | 0 => some .ignored
  | 1 => some .asRead
  | 2 => some .inverted
  | _ => none

def pulseCode : PulseKind → Nat
  | .minute => 0
  | .quarter => 1
  | .hour => 2

def pulseOf? : Nat → Option PulseKind
  | 0 => some .minute
  | 1 => some .quarter
  | 2 => some .hour
  | _ => none

/-- Kind and index of a selector (table of R211). -/
def selectorCode : Selector → Nat × Nat
  | .sectionHeld i => (0, i.val)
  | .sectionFault i => (1, i.val)
  | .convoyRunning c => (2, c.val)
  | .convoyWaiting c => (3, c.val)
  | .convoyHalted c => (4, c.val)
  | .cell k => (5, k.val)
  | .driverPresent d => (6, d.val)
  | .driverHorn d => (7, d.val)
  | .driverHalt d => (8, d.val)
  | .driverAux d => (9, d.val)
  | .lineLevel l => (10, l.val)
  | .departureFired e => (11, e.val)
  | .clockPulse k => (12, pulseCode k)
  | .modeIs m => (13, modeCode m)
  | .always => (14, 0xFF)

def selectorOf? (kind idx : Nat) : Option Selector :=
  match kind with
  | 0 => (index? 64 idx).map .sectionHeld
  | 1 => (index? 64 idx).map .sectionFault
  | 2 => (index? 8 idx).map .convoyRunning
  | 3 => (index? 8 idx).map .convoyWaiting
  | 4 => (index? 8 idx).map .convoyHalted
  | 5 => (index? 8 idx).map .cell
  | 6 => (index? 8 idx).map .driverPresent
  | 7 => (index? 8 idx).map .driverHorn
  | 8 => (index? 8 idx).map .driverHalt
  | 9 => (index? 8 idx).map .driverAux
  | 10 => (index? 16 idx).map .lineLevel
  | 11 => (index? 8 idx).map .departureFired
  | 12 => (pulseOf? idx).map .clockPulse
  | 13 => (modeOf? idx).map .modeIs
  | 14 => if idx = 0xFF then some .always else none
  | _ => none

/-- A gate from its terms byte and its invert flag (R211). -/
def gateOf? (terms inv : Nat) : Option Gate :=
  match termOf? (terms % 4), termOf? (terms / 4 % 4), termOf? (terms / 16 % 4), termOf? (terms / 64 % 4), flagOf? inv with
  | some a, some b, some c, some d, some i => some { terms := #v[a, b, c, d], invert := i }
  | _, _, _, _, _ => none

def gateBytes (g : Gate) : List Byte :=
  [b8 (termCode (Table.at g.terms 0) + 4 * termCode (Table.at g.terms 1) + 16 * termCode (Table.at g.terms 2)
      + 64 * termCode (Table.at g.terms 3)), flagB g.invert]

def channelModeCode : ChannelMode → Nat
  | .steered => 0
  | .fixed => 1

def channelModeOf? : Nat → Option ChannelMode
  | 0 => some .steered
  | 1 => some .fixed
  | _ => none

def lineDirectionCode : LineDirection → Nat
  | .input => 0
  | .output => 1

def lineDirectionOf? : Nat → Option LineDirection
  | 0 => some .input
  | 1 => some .output
  | _ => none

def driveCode : Drive → Nat
  | .enabled => 0
  | .released => 1

def driveOf? : Nat → Option Drive
  | 0 => some .enabled
  | 1 => some .released
  | _ => none

/-- The code and the number of a line function; 0xFF stands for no number (log entry 48). -/
def lineFunctionBytes : LineFunction → List Byte
  | .data => [0, 0xFF]
  | .junction => [1, 0xFF]
  | .cell k => [2, b8 k.val]
  | .flash => [3, 0xFF]

def lineFunctionOf? (code num : Nat) : Option LineFunction :=
  match code with
  | 0 => some .data
  | 1 => some .junction
  | 2 => (index? 8 num).map .cell
  | 3 => some .flash
  | _ => none

/-- Position in the list HIGH, LOW (chapter 8, opening; log entry 14). -/
def pinCode : PinState → Nat
  | .high => 0
  | .low => 1

def departureActionCode : DepartureAction → Nat
  | .start => 0
  | .wake => 1
  | .resume => 2
  | .signal => 3

def departureActionOf? : Nat → Option DepartureAction
  | 0 => some .start
  | 1 => some .wake
  | 2 => some .resume
  | 3 => some .signal
  | _ => none

def resetCauseCode : ResetCause → Nat
  | .powerOn => 0
  | .resetLine => 1
  | .command => 2

def linkRateCode : LinkRate → Nat
  | .baud57600 => 0
  | .baud230400 => 1

/-- The four reverse flags in one byte (R211, SSL). -/
def flagsByte (f : ChannelFlags) : Nat :=
  f.throttle.toNat + 2 * f.coupler.toNat + 4 * f.lights.toNat + 8 * f.aux.toNat

def flagsOf? (n : Nat) : Option ChannelFlags :=
  if n < 16 then
    some { throttle := n % 2 = 1, coupler := n / 2 % 2 = 1, lights := n / 4 % 2 = 1, aux := n / 8 % 2 = 1 }
  else none

/-! ## Status codes and replies (R206, R209) -/

inductive Status where
  | ok
  | badKind
  | badLen
  | badVal
  | badState
  | inUse
  | badRoute
  | badMode
  | latched
  | active
deriving DecidableEq, Repr

def Status.code : Status → Byte
  | .ok => 0x00
  | .badKind => 0x01
  | .badLen => 0x02
  | .badVal => 0x03
  | .badState => 0x04
  | .inUse => 0x05
  | .badRoute => 0x06
  | .badMode => 0x07
  | .latched => 0x08
  | .active => 0x09

/-- A status code and the reply body after it. -/
structure Reply where
  status : Status
  body : List Byte
deriving DecidableEq, Repr

/-- A reply without a body of its own: a plain OK, or a refusal (R192). -/
def Reply.bare (st : Status) : Reply := { status := st, body := [] }

def Reply.okay (body : List Byte) : Reply := { status := .ok, body := body }

/-! ## Frames (R206, R207) -/

/-- One shift of the check register. -/
def crcShift (r : Half) : Half := if r.msb then (r <<< 1) ^^^ 0x1021 else r <<< 1

def crcShifts : Nat → Half → Half
  | 0, r => r
  | n + 1, r => crcShifts n (crcShift r)

def crcByte (r : Half) (b : Byte) : Half := crcShifts 8 (r ^^^ (b.zeroExtend 16 <<< 8))

/-- The check over the given bytes (R207). -/
def crc (bs : List Byte) : Half := bs.foldl crcByte 0xFFFF

/-- The bytes a check covers: length, kind, tag and body. -/
def coveredBytes (kind tag : Byte) (body : List Byte) : List Byte := b8 (2 + body.length) :: kind :: tag :: body

/-- A whole frame (R206). -/
def frameOf (kind tag : Byte) (body : List Byte) : List Byte :=
  0xA6 :: coveredBytes kind tag body ++ halfBytes (crc (coveredBytes kind tag body)).toNat

/-- The frame of a reply: the request's kind with the reply mark, its tag, the status and the body (R192, R206, R208). -/
def replyFrame (kind tag : Byte) (r : Reply) : List Byte := frameOf (kind ||| 0x80) tag (r.status.code :: r.body)

/-- The frame of a notice (R199, R211). -/
def noticeFrame (seq : Byte) (src : SourceId) (subjects : BitVec 64) : List Byte :=
  frameOf 0x7E seq (b8 src.val :: mapB 8 subjects.toNat)

/-! ## Bodies with a presence mask (R210) -/

/-- The fields of the given sizes in bytes, each present where its mask bit is set; none where the length does not fit. A
field of size 0 carries no byte and is given as 0. A mask bit that names no field counts no bytes (log entry 24). -/
def readFields : List Nat → Nat → List Byte → Option (List (Option Nat))
  | [], _, [] => some []
  | [], _, _ :: _ => none
  | sz :: szs, mask, bs =>
    if mask % 2 = 1 then
      match sz, bs with
      | 0, bs => (readFields szs (mask / 2) bs).map fun fs => some 0 :: fs
      | 1, b :: bs => (readFields szs (mask / 2) bs).map fun fs => some b.toNat :: fs
      | 2, hi :: lo :: bs => (readFields szs (mask / 2) bs).map fun fs => some (halfOf hi lo) :: fs
      | _, _ => none
    else (readFields szs (mask / 2) bs).map fun fs => none :: fs

def maskOf : List (Option Nat) → Nat
  | [] => 0
  | f :: fs => f.isSome.toNat + 2 * maskOf fs

def fieldBytes (sz n : Nat) : List Byte :=
  match sz with
  | 0 => []
  | 1 => [b8 n]
  | _ => halfBytes n

/-- The bytes of the present fields, in order: what `readFields` reads back. -/
def writeFields : List Nat → List (Option Nat) → List Byte
  | sz :: szs, f :: fs => ((f.map (fieldBytes sz)).getD []) ++ writeFields szs fs
  | _, _ => []

/-- Bytes taken two by two. -/
def pairsOf : List Byte → Option (List (Byte × Byte))
  | [] => some []
  | [_] => none
  | a :: b :: bs => (pairsOf bs).map ((a, b) :: ·)

/-! ## The request bodies with many fields -/

/-- SDEF (R9, R210): absent fields carry 0xFF or 0xFFFF. -/
structure SdefReq where
  sec : Byte
  kind : Byte
  endA : Byte
  endB : Byte
  allowed : Byte
  line : Byte
  settle : Nat
  patience : Byte
deriving DecidableEq, Repr

def readSdef : List Byte → Option SdefReq
  | [sec, kind, endA, endB, allowed, line, s1, s0, patience] =>
    some { sec, kind, endA, endB, allowed, line, settle := halfOf s1 s0, patience }
  | _ => none

/-- FCV (R211). -/
structure FcvReq where
  convoy : Byte
  home : Byte
  dir : Byte
  travel : Byte
  source : Byte
  driver : Byte
  members : List (Byte × Byte)
deriving DecidableEq, Repr

def readFcv : List Byte → Option FcvReq
  | convoy :: n :: home :: dir :: travel :: source :: driver :: rest =>
    match pairsOf rest with
    | some ms => if ms.length = n.toNat then some { convoy, home, dir, travel, source, driver, members := ms } else none
    | none => none
  | _ => none

/-- LRT (R211): the convoy, then section and step flags of each step. -/
structure LrtReq where
  convoy : Byte
  steps : List (Byte × Byte)
deriving DecidableEq, Repr

def readLrt : List Byte → Option LrtReq
  | convoy :: n :: rest =>
    match pairsOf rest with
    | some ts => if ts.length = n.toNat then some { convoy, steps := ts } else none
    | none => none
  | _ => none

/-- TCV (R61, R210): the fields in the order R61 names them. -/
structure TcvReq where
  convoy : Byte
  priority : Option Nat
  lag : Option Nat
  gapMin : Option Nat
  gapMax : Option Nat
  trimStep : Option Nat
  source : Option Nat
  cruise : Option Nat
  ramp : Option Nat
deriving DecidableEq, Repr

def tcvSizes : List Nat := [1, 1, 2, 2, 1, 2, 1, 1]

def readTcv : List Byte → Option TcvReq
  | convoy :: mask :: rest =>
    match readFields tcvSizes mask.toNat rest with
    | some [priority, lag, gapMin, gapMax, trimStep, source, cruise, ramp] =>
      some { convoy, priority, lag, gapMin, gapMax, trimStep, source, cruise, ramp }
    | _ => none
  | _ => none

/-- SHL (R211). -/
structure ShlReq where
  convoy : Byte
  sources : Nat
  throttle : Byte
  lights : Byte
  restart : Byte
deriving DecidableEq, Repr

def readShl : List Byte → Option ShlReq
  | [convoy, s1, s0, throttle, lights, restart] =>
    some { convoy, sources := halfOf s1 s0, throttle, lights, restart }
  | _ => none

/-- SCL (R211). -/
structure SclReq where
  cell : Byte
  enable : Option Nat
  selectors : List (Option Nat)
  gates : List (Option Nat)
  fn : Option Nat
  invert : Option Nat
  shotTime : Option Nat
  rise : Option Nat
  fall : Option Nat
deriving DecidableEq, Repr

def sclSizes : List Nat := [1, 2, 2, 2, 2, 2, 2, 2, 2, 1, 1, 2, 1, 1]

def readScl : List Byte → Option SclReq
  | cell :: m1 :: m0 :: rest =>
    match readFields sclSizes (halfOf m1 m0) rest with
    | some [enable, s1, s2, s3, s4, g1, g2, g3, g4, fn, invert, shotTime, rise, fall] =>
      some { cell, enable, selectors := [s1, s2, s3, s4],
             gates := [g1, g2, g3, g4], fn, invert, shotTime, rise, fall }
    | _ => none
  | _ => none

/-- SSL (R211). -/
structure SslReq where
  slot : Byte
  address : Option Nat
  span : Option Nat
  brake : Option Nat
  deadFR : Option Nat
  deadRF : Option Nat
  reverse : Option Nat
deriving DecidableEq, Repr

def sslSizes : List Nat := [1, 2, 2, 2, 2, 1]

def readSsl : List Byte → Option SslReq
  | slot :: mask :: rest =>
    match readFields sslSizes mask.toNat rest with
    | some [address, span, brake, deadFR, deadRF, reverse] =>
      some { slot, address, span, brake, deadFR, deadRF, reverse }
    | _ => none
  | _ => none

/-- SLN (R152, R210): the fields in the order R152 names them. -/
structure SlnReq where
  line : Byte
  direction : Option Nat
  drive : Option Nat
  function : Option Nat
  invert : Option Nat
  wake : Option Nat
  period : Option Nat
  gate : Option Nat
deriving DecidableEq, Repr

def slnSizes : List Nat := [1, 1, 2, 1, 1, 2, 1]

def readSln : List Byte → Option SlnReq
  | line :: mask :: rest =>
    match readFields slnSizes mask.toNat rest with
    | some [direction, drive, function, invert, wake, period, gate] =>
      some { line, direction, drive, function, invert, wake, period, gate }
    | _ => none
  | _ => none

/-- SDP (R211): the missed reset mark is bit 8 and carries no byte. -/
structure SdpReq where
  entry : Byte
  enable : Option Nat
  day : Option Nat
  hour : Option Nat
  minute : Option Nat
  action : Option Nat
  convoy : Option Nat
  cruise : Option Nat
  ramp : Option Nat
  resetMissed : Bool
deriving DecidableEq, Repr

def sdpSizes : List Nat := [1, 1, 1, 1, 1, 1, 1, 1, 0]

def readSdp : List Byte → Option SdpReq
  | entry :: m1 :: m0 :: rest =>
    match readFields sdpSizes (halfOf m1 m0) rest with
    | some [enable, day, hour, minute, action, convoy, cruise, ramp, mark] =>
      some { entry, enable, day, hour, minute, action, convoy, cruise, ramp,
             resetMissed := mark.isSome }
    | _ => none
  | _ => none

/-- SMO (R183, R210). -/
structure SmoReq where
  slowLimit : Option Nat
  holdCell : Option Nat
  driverWake : Option Nat
deriving DecidableEq, Repr

def smoSizes : List Nat := [1, 1, 1]

def readSmo : List Byte → Option SmoReq
  | mask :: rest =>
    match readFields smoSizes mask.toNat rest with
    | some [slowLimit, holdCell, driverWake] =>
      some { slowLimit, holdCell, driverWake }
    | _ => none
  | _ => none

/-- The entries of an ENN, DSN or CLN list, at most 21 (R200, R202). -/
def readSources (body : List Byte) : Option (List Byte) := if body.length ≤ 21 then some body else none

/-- The entries of a PRN list, at most 21, each a source and a priority (R201). -/
def readPriorities (body : List Byte) : Option (List (Byte × Byte)) :=
  match pairsOf body with
  | some es => if es.length ≤ 21 then some es else none
  | none => none

end Sys2Proof.Machine
end

