-- ==== Sys2Proof/Machine/Halts.lean ====
section
/-! DEFINITION. The halt unit (chapter 5): its sources, the beginning and the end of a halt, and SHL, HLT and RSM. -/

namespace Sys2Proof.Machine

/-! ## Replies of a block -/

/-- A refused request changes nothing. -/
def refuse (st : Status) (p : Part) : Part × Reply := (p, Reply.bare st)

/-- A plain OK. -/
def accept (p : Part) : Part × Reply := (p, Reply.okay [])

/-! ## Sources (R93, R95, R96) -/

/-- CELL0 to CELL7, DRIVER_LOST and SECTION_FAULT. -/
def levelSources : SourceSet := 0x3FF

def sourceDriverLost : SourceSet := 0x100
def sourceSectionFault : SourceSet := 0x200
def sourceDriverHalt : SourceSet := 0x400
def sourceSectionLost : SourceSet := 0x800
def sourceHost : SourceSet := 0x1000

def Road.faulted (r : Road) (i : SectionId) : Bool := (r.sect i).status.isFault

/-- A section of the convoy's section set is in FAULT (R95). -/
def Road.sectionFaultActive (r : Road) (c : ConvoyId) : Bool :=
  (r.heldSections c).any r.faulted
    || (match r.request c with
        | some q => q.legs.any fun l => r.faulted l.sec
        | none => false)
    || r.settling.any fun t => t.convoy = c && t.sections.any r.faulted

/-- The demand source is DRIVER(d) with driver d LOST. -/
def driverLostActive (drivers : DriverPort) (v : Convoy) : Bool :=
  match v.source with
  | .driver d => (Table.at drivers.handsets d).presence = .lost
  | _ => false

/-- The cell sources whose cells' outputs are true. -/
def cellLevels (cells : Table Cell 8) : SourceSet :=
  (List.finRange 8).foldl (fun m k => if (Table.at cells k).output then m ||| BitVec.twoPow 13 k.val else m) 0

/-- The level sources of convoy `c` that are active now, enabled or not (R93). -/
def activeLevels (cells : Table Cell 8) (drivers : DriverPort) (c : ConvoyId) (r : Road) : SourceSet :=
  let v := r.convoy c
  if v.state.formed then
    cellLevels cells
      ||| (if driverLostActive drivers v then sourceDriverLost else 0)
      ||| (if r.sectionFaultActive c then sourceSectionFault else 0)
  else 0

/-! ## Halt begin (R97) -/

/-- HALTED, with the state just before as the return state. -/
def ConvoyState.toHalted : ConvoyState → ConvoyState
  | .plain b => .halted b
  | s => s

def Convoy.joined (new : SourceSet) (v : Convoy) : Convoy :=
  { v with state := v.state.toHalted, halt := { v.halt with causes := v.halt.causes ||| new } }

/-- The enabled ones of the given sources join the cause set of a formed convoy. -/
def joinCauses (c : ConvoyId) (srcs : SourceSet) (r : Road) : Road :=
  let v := r.convoy c
  let new := srcs &&& v.halt.enabled &&& ~~~v.halt.causes
  if v.state.formed && new ≠ 0 then
    Road.raise srcConvoyHalted (subject c.val) (r.updConvoy c (Convoy.joined new))
  else r

/-! ## Halt end (R105, R106) -/

/-- The state a convoy takes from its return state. -/
def Convoy.afterHalt (v : Convoy) : ConvoyState :=
  match v.state with
  | .halted .standing => .plain .standing
  | .halted .arrived => .plain .arrived
  | .halted .waiting => if v.mayRun then .plain .running else .plain .waiting
  | .halted .running => if v.mayRun then .plain .running else .plain .waiting
  | s => s

/-- The convoy at a halt end. Its timetable demand is 0 from then on, so that under TIMETABLE re-arm clears at the first frame
start after the halt even where no frame start has seen the convoy HALTED (R88, R106; log entry 46). -/
def Convoy.restarted (v : Convoy) : Convoy :=
  { v with state := v.afterHalt, ttDemand := 0, halt := { v.halt with causes := 0, rearm := true } }.refilled

/-- The halt ends, and a convoy left WAITING with nothing asked for asks for the group after its lead. -/
def haltEnd (c : ConvoyId) (r : Road) : Road :=
  let r := r.updConvoy c Convoy.restarted
  let v := r.convoy c
  if v.state = .plain .waiting && v.nextStatus = some .ahead && v.asked.isNone then ask c (v.lead + 1) r else r

/-! ## Level changes (R93, R97, R103) -/

/-- Under AUTO the level causes whose sources are inactive leave the set, and the halt ends if none is left. -/
def leaveCauses (active : SourceSet) (c : ConvoyId) (r : Road) : Road :=
  let v := r.convoy c
  let kept := v.halt.causes &&& (~~~levelSources ||| active)
  if v.state.isHalted && v.halt.restart = .auto then
    if kept = 0 then haltEnd c r
    else r.updConvoy c fun v => { v with halt := { v.halt with causes := kept } }
  else r

/-- The halt unit takes the level sources of convoy `c` as they stand: active ones join, inactive ones leave, and what the
end of the halt has made active joins again (log entry 29). -/
def reviewHalt (cells : Table Cell 8) (drivers : DriverPort) (c : ConvoyId) (r : Road) : Road :=
  let r := joinCauses c (activeLevels cells drivers c r) r
  let r := leaveCauses (activeLevels cells drivers c r) c r
  joinCauses c (activeLevels cells drivers c r) r

/-- Every convoy, ascending. -/
def reviewHalts (cells : Table Cell 8) (drivers : DriverPort) (r : Road) : Road :=
  (List.finRange 8).foldl (fun r c => reviewHalt cells drivers c r) r

def Part.onRoad (f : Road → Road) (p : Part) : Part := { p with road := f p.road }

def Part.reviewHalts (p : Part) : Part := p.onRoad (Machine.reviewHalts p.cells p.drivers)

/-! ## SHL, HLT, RSM -/

/-- The halt record SHL sets (R99). -/
def HaltRecord.configured (sources : Nat) (t : ThrottleAction) (l : LightsAction) (m : RestartMode) (h : HaltRecord) :
    HaltRecord :=
  { h with enabled := BitVec.ofNat 13 sources, throttle := t, lights := l, restart := m }

def Convoy.setHalt (f : HaltRecord → HaltRecord) (v : Convoy) : Convoy := { v with halt := f v.halt }

/-- R99. -/
def shl (q : ShlReq) (p : Part) : Part × Reply :=
  match index? 8 q.convoy.toNat, throttleActionOf? q.throttle.toNat, lightsActionOf? q.lights.toNat,
      restartModeOf? q.restart.toNat with
  | some c, some t, some l, some m =>
    if 2 ^ 13 ≤ q.sources then refuse .badVal p
    else if (p.road.convoy c).state.isHalted then refuse .badState p
    else accept (p.onRoad fun r => r.updConvoy c (Convoy.setHalt (HaltRecord.configured q.sources t l m))).reviewHalts
  | _, _, _, _ => refuse .badVal p

def answerShl (body : List Byte) (p : Part) : Part × Reply :=
  match readShl body with
  | some q => shl q p
  | none => refuse .badLen p

/-- R100. -/
def hlt (convoy : Byte) (p : Part) : Part × Reply :=
  match index? 8 convoy.toNat with
  | none => refuse .badVal p
  | some c =>
    let v := p.road.convoy c
    if !v.state.formed || v.halt.enabled &&& sourceHost = 0 then refuse .badState p
    else accept (p.onRoad (joinCauses c sourceHost))

def answerHlt (body : List Byte) (p : Part) : Part × Reply :=
  match body with
  | [c] => hlt c p
  | _ => refuse .badLen p

/-- R104. That the active sources of the refusal are one source mask is the model's choice (log entry 22). -/
def rsm (convoy : Byte) (p : Part) : Part × Reply :=
  match index? 8 convoy.toNat with
  | none => refuse .badVal p
  | some c =>
    let v := p.road.convoy c
    let active := activeLevels p.cells p.drivers c p.road &&& v.halt.enabled
    if !v.state.isHalted then refuse .badState p
    else if active ≠ 0 then (p, { status := .active, body := halfBytes active.toNat })
    else accept (p.onRoad (haltEnd c)).reviewHalts

def answerRsm (body : List Byte) (p : Part) : Part × Reply :=
  match body with
  | [c] => rsm c p
  | _ => refuse .badLen p

end Sys2Proof.Machine
end

