-- ==== Sys2Proof/Machine/Modes.lean ====
section
/-! DEFINITION. The mode controller: mode changes, triggers, park entry and the end of the park hold, MOD, SMO and PRL
(chapter 10, and the park hold of chapters 7 and 8). -/

namespace Sys2Proof.Machine

/-! ## Changes of mode (R178, R181, R184) -/

/-- Leaving PARK sets the latch (R181). -/
def ModeControl.to (m : Mode) (k : ModeControl) : ModeControl := { k with mode := m, latch := k.latch || k.mode = .park }

/-- A change of the layout mode, with its notice. -/
def changeMode (m : Mode) (p : Part) : Part := { p with mode := p.mode.to m }.onRoad (Road.raise srcModeChanged 0)

/-- A wake trigger: it acts in PARK alone (R178, R184). -/
def wakeTrigger (p : Part) : Part :=
  if p.mode.mode = .park then (changeMode .hold p).onRoad (Road.raise srcParkWake 0) else p

/-- RESUME (R170, R178). -/
def resumeTrigger (p : Part) : Part := if p.mode.mode = .hold then changeMode .run p else p

/-- A rise of the hold cell (R178). -/
def holdTrigger (p : Part) : Part :=
  if p.mode.mode = .run || p.mode.mode = .slow then changeMode .hold p else p

/-! ## Park entry and the end of the hold (R143, R155, R180, R182) -/

/-- A slot at park entry (R143). -/
def Slot.parked (t : Slot) : Slot :=
  match t.onAir with
  | .onAir => { t with onAir := .rundown 3 }
  | _ => t

/-- What a driven line holds from park entry on; one that is already frozen keeps its value (R155, R180). -/
def Line.freeze (hold : Bool) (cells : Table Cell 8) (l : Line) : Option Frozen :=
  match l.frozen with
  | some f => some f
  | none =>
    if l.driven hold then
      some { pin := pinOf l.invert (l.drivenValue cells), level := l.drivenValue cells }
    else none

/-- A line at park entry. -/
def Line.parked (hold : Bool) (cells : Table Cell 8) (l : Line) : Line :=
  { l with frozen := l.freeze hold cells, flash := none }

def Road.mapLines (f : Line → Line) (r : Road) : Road := { r with lines := Table.mapAll (fun _ l => f l) r.lines }

def Composer.mapSlots (f : Slot → Slot) (k : Composer) : Composer :=
  { k with slots := Table.mapAll (fun _ t => f t) k.slots }

/-- The change from HOLD to PARK (R180). -/
def parkEntry (p : Part) : Part :=
  let hold := p.parkHold
  changeMode .park
    { p with road := p.road.mapLines (Line.parked hold p.cells), composer := p.composer.mapSlots Slot.parked }

/-- A line whose function is FLASH and whose gate is true starts its phase; any other has none (R151, R155). -/
def Line.rephase (cells : Table Cell 8) (l : Line) : Line :=
  if l.function = .flash && (Table.at cells l.flashGate).output then l.startFlash else l.stopFlash

/-- A line when the park hold ends (R155). -/
def Line.thawed (cells : Table Cell 8) (l : Line) : Line := { l with frozen := none }.rephase cells

/-- The park latch is cleared and the hold ends (R182). -/
def endHold (p : Part) : Part :=
  { p with mode := { p.mode with latch := false }, road := p.road.mapLines (Line.thawed p.cells) }

/-! ## MOD (R176, R177) -/

/-- The pairs of the second table of R176. -/
def modAllowed : Mode → Mode → Bool
  | .run, .slow => true
  | .run, .hold => true
  | .slow, .run => true
  | .slow, .hold => true
  | .hold, .run => true
  | .hold, .slow => true
  | .hold, .park => true
  | .park, .hold => true
  | _, _ => false

/-- The active convoys, ascending (R177). -/
def Road.activeConvoys (r : Road) : List ConvoyId := Table.numbers r.convoys fun v => v.state.active

/-- The mode and the park latch, in every reply to MOD. -/
def ModeControl.replyBytes (k : ModeControl) : List Byte := [b8 (modeCode k.mode), flagB k.latch]

/-- A reply to MOD with the mode and the latch as they stand after the request. -/
def modReply (st : Status) (p : Part) : Part × Reply := (p, { status := st, body := p.mode.replyBytes })

def modTo (m : Mode) (p : Part) : Part × Reply :=
  if p.mode.mode = m then modReply .ok p
  else if !modAllowed p.mode.mode m then modReply .badMode p
  else if m = .park then
    if p.road.activeConvoys.isEmpty then modReply .ok (parkEntry p)
    else
      (p, { status := .badState,
            body := p.mode.replyBytes ++ listB (fun c => [b8 c.val]) p.road.activeConvoys })
  else modReply .ok (changeMode m p)

def answerMod (body : List Byte) (p : Part) : Part × Reply :=
  match body with
  | [m] =>
    match modeOf? m.toNat with
    | some m => modTo m p
    | none => modReply .badVal p
  | _ => refuse .badLen p

/-! ## SMO, PRL (R182, R183) -/

/-- The hold cell field: none, or a cell; the outer none for a number that names no cell. -/
def holdCellOf? (n : Nat) : Option (Option CellId) := if n = 0xFF then some none else (index? 8 n).map some

def SmoReq.valuesOk (q : SmoReq) : Bool :=
  q.slowLimit.all (fun n => 5 ≤ n && n ≤ 60) && q.holdCell.all (fun n => (holdCellOf? n).isSome)
    && q.driverWake.all fun n => (flagOf? n).isSome

def ModeControl.options (q : SmoReq) (k : ModeControl) : ModeControl :=
  { k with slowLimit := q.slowLimit.getD k.slowLimit,
           holdCell := (q.holdCell.bind holdCellOf?).getD k.holdCell,
           driverWake := (q.driverWake.bind flagOf?).getD k.driverWake }

def smo (q : SmoReq) (p : Part) : Part × Reply :=
  if q.valuesOk then accept { p with mode := p.mode.options q } else refuse .badVal p

def answerSmo (body : List Byte) (p : Part) : Part × Reply :=
  match readSmo body with
  | some q => smo q p
  | none => refuse .badLen p

def prl (p : Part) : Part × Reply :=
  if p.mode.mode = .park then refuse .badMode p
  else if p.mode.latch then accept (endHold p)
  else accept p

def answerPrl (body : List Byte) (p : Part) : Part × Reply :=
  match body with
  | [] => prl p
  | _ => refuse .badLen p

end Sys2Proof.Machine
end

