-- ==== Sys2Proof/Machine/Demand.lean ====
section
/-! DEFINITION. Lead demand, demand history and member percentages, and the driver port (chapter 4). -/

namespace Sys2Proof.Machine

/-! ## Lead demand (R75, R77) -/

/-- The lead demand a handset gives. -/
def Handset.demand (h : Handset) : Nat :=
  match h.presence with
  | .lost => 0
  | .present _ => h.throttle.toNat

/-- R75. -/
def leadDemand (drivers : DriverPort) (v : Convoy) : Nat :=
  match v.source with
  | .host => v.hostSpeed
  | .timetable => v.ttDemand / 100
  | .driver d => (Table.at drivers.handsets d).demand

/-- One step of a demand toward the cruise, both in hundredths of a percent (R77). -/
def stepToward (target step d : Nat) : Nat := if d < target then min (d + step) target else max (d - step) target

/-- R77, with the frame period in ms. -/
def Convoy.stepTimetable (period : Nat) (v : Convoy) : Convoy :=
  match v.source with
  | .timetable =>
    { v with ttDemand :=
        if v.state = .plain .running then stepToward (v.cruise * 100) (v.ramp * period / 10) v.ttDemand else 0 }
  | _ => v

/-! ## The answer at a frame start (R85 to R88) -/

/-- The engine's answer for the members of one convoy. -/
inductive Answer where
  | halted
  | neutral
  | percent (each : List Nat) (travel : Travel)
deriving DecidableEq, Repr

/-- Clamped to 0 to 100. -/
def clampPercent (n : Int) : Nat := if n < 0 then 0 else min n.toNat 100

/-- The percentage of a member from its base demand (R87); `cap` is the slow limit in SLOW. -/
def percentage (cap : Option Nat) (trim : Int) (trimStep base : Nat) : Nat :=
  if base = 0 then 0
  else
    let n := clampPercent (base + trim * trimStep)
    match cap with
    | some limit => min n limit
    | none => n

/-- The travel of the step at the lead index. -/
def Convoy.travel (v : Convoy) : Travel :=
  match v.route[v.lead]? with
  | some t => t.travel
  | none => .forward

/-- Percentages of the members, lead first, from the history with the given demand in front (R86). -/
def Convoy.percentages (cap : Option Nat) (given : Nat) (v : Convoy) : List Nat :=
  v.members.zipIdx.map fun e => percentage cap e.1.trim v.trimStep ((given :: v.history).getD (v.lag * e.2) 0)

/-- The history after the given demand has been pushed and the oldest entry dropped (R86). -/
def Convoy.pushed (given : Nat) (v : Convoy) : Convoy :=
  { v with history := (given :: v.history).take v.history.length }

/-- The re-arm test (R88). -/
def Convoy.rearmTested (demand : Nat) (v : Convoy) : Convoy :=
  { v with halt := { v.halt with rearm := v.halt.rearm && demand ≠ 0 } }

/-- The convoy runs and its members take percentages: the last case of R85. -/
def Convoy.drives (mode : ModeControl) (v : Convoy) : Bool :=
  v.state = .plain .running && (mode.mode = .run || mode.mode = .slow) && !v.halt.rearm

def ModeControl.cap (k : ModeControl) : Option Nat := if k.mode = .slow then some k.slowLimit else none

/-- A formed convoy at a frame start, and the answer for its members (R85). -/
def Convoy.frame (mode : ModeControl) (drivers : DriverPort) (period : Nat) (v : Convoy) : Convoy × Answer :=
  let v := v.stepTimetable period
  let demand := leadDemand drivers v
  let v := v.rearmTested demand
  if v.drives mode then (v.pushed demand, .percent (v.percentages mode.cap demand) v.travel)
  else (v.pushed 0, if v.state.isHalted then .halted else .neutral)

/-! ## SPD (R76) -/

def spd (convoy speed : Byte) (p : Part) : Part × Reply :=
  match index? 8 convoy.toNat with
  | none => refuse .badVal p
  | some c =>
    if 100 < speed.toNat then refuse .badVal p
    else if !(p.road.convoy c).state.formed then refuse .badState p
    else accept (p.onRoad fun r => r.updConvoy c fun v => { v with hostSpeed := speed.toNat })

def answerSpd (body : List Byte) (p : Part) : Part × Reply :=
  match body with
  | [c, speed] => spd c speed p
  | _ => refuse .badLen p

/-! ## Driver port (R78 to R81) -/

/-- The formed convoys whose demand source is the driver, ascending. -/
def Road.drivenBy (r : Road) (d : DriverId) : List ConvoyId :=
  Table.numbers r.convoys fun v => v.state.formed && v.source = .driver d

def DriverPort.set (d : DriverId) (h : Handset) (k : DriverPort) : DriverPort :=
  { k with handsets := Table.put k.handsets d h }

/-- The record a valid update leaves (R78). -/
def updatedHandset (throttle : Int) (buttons : Byte) : Handset :=
  { throttle, horn := buttons.getLsbD 0, halt := buttons.getLsbD 1, aux := buttons.getLsbD 2, presence := .present 300 }

/-- The DRIVER_HALT event of a press, for every convoy sourced by the driver (R81, R96). -/
def driverHaltEvent (d : DriverId) (r : Road) : Road :=
  (r.drivenBy d).foldl (fun r c => joinCauses c sourceDriverHalt r) r

/-- A valid update (R78, R81); a press joins before a cause leaves (log entry 30). -/
def validUpdate (d : DriverId) (h : Handset) (p : Part) : Part :=
  let press := h.halt && !(Table.at p.drivers.handsets d).halt
  let p := { p with drivers := p.drivers.set d h }
  let p := if press then p.onRoad (driverHaltEvent d) else p
  let p := p.reviewHalts
  if h.throttle ≠ 0 && p.mode.driverWake then wakeTrigger p else p

/-- An update a handset receiver sends (R78, R79, R213). -/
def handsetUpdate (driver throttle buttons : Byte) (p : Part) : Part :=
  match index? 8 driver.toNat with
  | some d =>
    if -100 ≤ throttle.toInt && throttle.toInt ≤ 100 && buttons.toNat < 8 then
      validUpdate d (updatedHandset throttle.toInt buttons) p
    else { p with drivers := { p.drivers with errors := countUp 255 p.drivers.errors } }
  | none => { p with drivers := { p.drivers with errors := countUp 255 p.drivers.errors } }

/-- A lost timer with nothing left (R80). -/
def Handset.due (h : Handset) : Bool := h.presence = .present 0

/-- R80; nothing where an update has started the timer again, or the driver is LOST (log entry 8). -/
def lostTimerExpiry (d : DriverId) (p : Part) : Part :=
  if (Table.at p.drivers.handsets d).due then
    Part.reviewHalts
      { p with drivers := p.drivers.set d Handset.lost, road := p.road.raise srcDriverLost (subject d.val) }
  else p

/-! ## QDR (R82) -/

def Presence.bytes : Presence → List Byte
  | .present left => 0 :: halfBytes left
  | .lost => [1, 0xFF, 0xFF]

def Handset.bytes (h : Handset) : List Byte :=
  [signedB h.throttle, flagB h.horn, flagB h.halt, flagB h.aux] ++ h.presence.bytes

def qdr (driver : Byte) (p : Part) : Part × Reply :=
  match index? 8 driver.toNat with
  | none => refuse .badVal p
  | some d =>
    (p, Reply.okay ((Table.at p.drivers.handsets d).bytes ++ listB (fun c => [b8 c.val]) (p.road.drivenBy d)
      ++ [b8 p.drivers.errors]))

def answerQdr (body : List Byte) (p : Part) : Part × Reply :=
  match body with
  | [d] => qdr d p
  | _ => refuse .badLen p

end Sys2Proof.Machine
end

