-- ==== Sys2Proof/Machine/Cells.lean ====
section
/-! DEFINITION. The condition cells: inputs, gates, functions, the scan and its report, SCL and QCL (chapter 6). -/

namespace Sys2Proof.Machine

/-! ## Inputs and gates (R112, R113, R116) -/

def Handset.isPresent (h : Handset) : Bool := h.presence ≠ .lost

def ClockPulses.marked (k : ClockPulses) : PulseKind → Bool
  | .minute => k.minute
  | .quarter => k.quarter
  | .hour => k.hour

/-- The value a selector reads at a scan of the part `p`; `outs` holds the cells as they stand in this scan (R112, R113). -/
def Part.input (p : Part) (outs : Table Cell 8) : Selector → Bool
  | .sectionHeld i => (p.road.sect i).status.holding.isSome
  | .sectionFault i => p.road.faulted i
  | .convoyRunning c => (p.road.convoy c).state = .plain .running
  | .convoyWaiting c => (p.road.convoy c).state = .plain .waiting
  | .convoyHalted c => (p.road.convoy c).state.isHalted
  | .cell k => (Table.at outs k).output
  | .driverPresent d => (Table.at p.drivers.handsets d).isPresent
  | .driverHorn d => (Table.at p.drivers.handsets d).horn
  | .driverHalt d => (Table.at p.drivers.handsets d).halt
  | .driverAux d => (Table.at p.drivers.handsets d).aux
  | .lineLevel l => (p.road.line l).level p.parkHold p.cells
  | .departureFired e => (Table.at p.departures e).fired
  | .clockPulse k => p.pulses.marked k
  | .modeIs m => p.mode.mode = m
  | .always => true

/-- Whether a term lets the gate be true; an ignored input does. -/
def Term.holds (t : Term) (input : Bool) : Bool :=
  match t with
  | .ignored => true
  | .asRead => input
  | .inverted => !input

/-- A gate's value from its four inputs (R116). -/
def Gate.value (inputs : Fin 4 → Bool) (g : Gate) : Bool :=
  let slots := List.finRange 4
  (slots.any (fun i => Table.at g.terms i ≠ .ignored) && slots.all fun i => (Table.at g.terms i).holds (inputs i))
    != g.invert

/-! ## Functions (R117 to R121) -/

/-- The four gate values at one scan. -/
structure Gates where
  g1 : Bool
  g2 : Bool
  g3 : Bool
  g4 : Bool
deriving DecidableEq, Repr

/-- g1 has risen (R118). -/
def Cell.rises (c : Cell) (g : Gates) : Bool := g.g1 && c.last = some false

/-- The latch after a scan under SET_RESET (R119). -/
def Cell.setReset (c : Cell) (g : Gates) : Bool := if g.g3 || g.g4 then false else if g.g1 || g.g2 then true else c.latch

/-- The latch after a scan under TOGGLE (R120). -/
def Cell.toggled (c : Cell) (g : Gates) : Bool :=
  if g.g3 || g.g4 then false else if c.rises g && g.g2 then !c.latch else c.latch

/-- The first step of R121: 5 ms of the one-shot time pass. -/
def Cell.runDown (c : Cell) : Cell :=
  if c.latch then { c with remaining := c.remaining - 5, latch := !(c.remaining - 5 == 0) } else c

/-- R121. -/
def Cell.oneShot (c : Cell) (g : Gates) : Cell :=
  if g.g3 || g.g4 then { c.runDown with latch := false, remaining := 0 }
  else if c.rises g then { c.runDown with latch := true, remaining := c.shotTime }
  else c.runDown

/-- A function applied at a scan: the new latch state and one-shot remaining, and the function value. -/
def Cell.apply (c : Cell) (g : Gates) : Cell × Bool :=
  match c.fn with
  | .andOr => (c, (g.g1 && g.g2) || (g.g3 && g.g4))
  | .orXor => (c, (g.g1 || g.g2) != (g.g3 || g.g4))
  | .allFour => (c, g.g1 && g.g2 && g.g3 && g.g4)
  | .setReset => ({ c with latch := c.setReset g }, c.setReset g)
  | .toggle => ({ c with latch := c.toggled g }, c.toggled g)
  | .oneShot => (c.oneShot g, (c.oneShot g).latch)

/-- Latch, one-shot and gate 1 last at false, 0 and none. -/
def Cell.cleared (c : Cell) : Cell := { c with latch := false, remaining := 0, last := none }

/-- The reload a scan takes up (R122). -/
def Cell.reloaded (c : Cell) : Cell := if c.reload then { c.cleared with reload := false } else c

/-- One cell at a scan, with its gate values (R122). -/
def Cell.scanned (c : Cell) (gates : Cell → Gates) : Cell :=
  let c := c.reloaded
  if c.enabled then
    let g := gates c
    let r := c.apply g
    { r.1 with output := r.2 != c.invert, last := some g.g1 }
  else { c.cleared with output := false }

/-! ## The scan and its report (R122 to R124) -/

/-- The gate values of a cell in a scan of `p`. -/
def Part.gates (p : Part) (outs : Table Cell 8) (c : Cell) : Gates :=
  let inputs := fun i => p.input outs (Table.at c.selectors i)
  { g1 := (Table.at c.gates 0).value inputs, g2 := (Table.at c.gates 1).value inputs,
    g3 := (Table.at c.gates 2).value inputs, g4 := (Table.at c.gates 3).value inputs }

/-- The cells after a scan, evaluated in number order. -/
def Part.scanCells (p : Part) : Table Cell 8 :=
  (List.finRange 8).foldl (fun outs k => Table.upd outs k fun c => c.scanned (p.gates outs)) p.cells

/-- A rise, a fall or neither, of a cell's output. -/
def edgeOf (before after : Cell) : Option Bool := if before.output = after.output then none else some after.output

/-- A line at the report of a scan: the gate of a FLASH line starts or stops its phase, outside the park hold (R151, R155). -/
def Line.scanReport (hold : Bool) (before after : Table Cell 8) (l : Line) : Line :=
  match edgeOf (Table.at before l.flashGate) (Table.at after l.flashGate) with
  | some up => if l.function = .flash && !hold then if up then l.startFlash else l.stopFlash else l
  | none => l

/-- The edge notices of one cell (R124). -/
def edgeNotice (before after : Table Cell 8) (k : CellId) (r : Road) : Road :=
  match edgeOf (Table.at before k) (Table.at after k) with
  | some true => if (Table.at after k).riseNotice then r.raise (srcCellEdge k) (subject k.val) else r
  | some false => if (Table.at after k).fallNotice then r.raise (srcCellEdge k) (subject k.val) else r
  | none => r

/-- The hold cell's output has risen at this scan. -/
def ModeControl.holdCellRises (before after : Table Cell 8) (m : ModeControl) : Bool :=
  match m.holdCell with
  | some k => edgeOf (Table.at before k) (Table.at after k) = some true
  | none => false

/-- R122 to R124. -/
def cellScan (p : Part) : Part :=
  let after := p.scanCells
  let road := (p.road.mapLines (Line.scanReport p.parkHold p.cells after))
  let road := (List.finRange 8).foldl (fun r k => edgeNotice p.cells after k r) road
  let q := { p with cells := after, pulses := { minute := false, quarter := false, hour := false }, road := road }
  (if p.mode.holdCellRises p.cells after then holdTrigger q else q).reviewHalts

/-- The time of a ONE_SHOT cell runs out: what the first step of R121 does to a cell with at most 5 ms left (log entry 9). -/
def Cell.expired (c : Cell) : Cell :=
  if c.enabled && c.fn = .oneShot && c.latch && !c.reload && c.remaining ≤ 5 then
    { c with latch := false, remaining := 0 }
  else c

def oneShotExpiry (k : CellId) (p : Part) : Part := { p with cells := Table.upd p.cells k Cell.expired }

/-! ## SCL (R125) -/

def selectorField (n : Nat) : Option Selector := selectorOf? (n / 256) (n % 256)

def gateField (n : Nat) : Option Gate := gateOf? (n / 256) (n % 256)

/-- An absent field, or one that reads as a value. -/
def reads {α : Type} (f : Nat → Option α) (o : Option Nat) : Bool := o.all fun n => (f n).isSome

/-- A present field's value, or the stored one. -/
def newOr {α : Type} (f : Nat → Option α) (o : Option Nat) (old : α) : α := (o.bind f).getD old

/-- The `i`-th of a list of fields. -/
def nthField (fs : List (Option Nat)) (i : Nat) : Option Nat := fs.getD i none

def shotTimeOk (n : Nat) : Bool := 100 ≤ n && n ≤ 25500 && n % 100 = 0

def SclReq.valuesOk (q : SclReq) : Bool :=
  reads flagOf? q.enable && q.selectors.all (reads selectorField) && q.gates.all (reads gateField)
    && reads cellFnOf? q.fn && reads flagOf? q.invert && q.shotTime.all shotTimeOk && reads flagOf? q.rise
    && reads flagOf? q.fall

/-- The present fields replace the stored ones, and reload is set. -/
def Cell.configured (q : SclReq) (c : Cell) : Cell :=
  { c with
      enabled := newOr flagOf? q.enable c.enabled,
      selectors := Table.mapAll (fun i s => newOr selectorField (nthField q.selectors i.val) s) c.selectors,
      gates := Table.mapAll (fun i g => newOr gateField (nthField q.gates i.val) g) c.gates,
      fn := newOr cellFnOf? q.fn c.fn, invert := newOr flagOf? q.invert c.invert,
      shotTime := q.shotTime.getD c.shotTime, riseNotice := newOr flagOf? q.rise c.riseNotice,
      fallNotice := newOr flagOf? q.fall c.fallNotice, reload := true }

def scl (q : SclReq) (p : Part) : Part × Reply :=
  match index? 8 q.cell.toNat with
  | some k => if q.valuesOk then accept { p with cells := Table.upd p.cells k (Cell.configured q) } else refuse .badVal p
  | none => refuse .badVal p

def answerScl (body : List Byte) (p : Part) : Part × Reply :=
  match readScl body with
  | some q => scl q p
  | none => refuse .badLen p

/-! ## QCL (R126) -/

def Selector.bytes (s : Selector) : List Byte := [b8 (selectorCode s).1, b8 (selectorCode s).2]

def Cell.bytes (c : Cell) : List Byte :=
  [flagB c.enabled] ++ c.selectors.toList.flatMap Selector.bytes ++ c.gates.toList.flatMap gateBytes
    ++ [b8 (cellFnCode c.fn), flagB c.invert] ++ halfBytes c.shotTime ++ [flagB c.riseNotice, flagB c.fallNotice]
    ++ [flagB c.latch] ++ halfBytes c.remaining ++ optB (c.last.map Bool.toNat) ++ [flagB c.reload, flagB c.output]

/-- The consumers of cell `k`: the lines whose function is CELL(k) in one list and the FLASH lines gated by it in a second one,
the model's reading of R126 (log entry 47). -/
def Part.consumerBytes (p : Part) (k : CellId) : List Byte :=
  listB (fun c => [b8 c.val]) (Table.numbers p.road.convoys fun v => v.halt.enabled.getLsbD k.val)
    ++ listB (fun l => [b8 l.val]) (Table.numbers p.road.lines fun l => l.function = .cell k)
    ++ listB (fun l => [b8 l.val]) (Table.numbers p.road.lines fun l => l.function = .flash && l.flashGate = k)
    ++ [flagB (p.mode.holdCell = some k)]

def qcl (cell : Byte) (p : Part) : Part × Reply :=
  match index? 8 cell.toNat with
  | some k => (p, Reply.okay ((Table.at p.cells k).bytes ++ p.consumerBytes k))
  | none => refuse .badVal p

def answerQcl (body : List Byte) (p : Part) : Part × Reply :=
  match body with
  | [k] => qcl k p
  | _ => refuse .badLen p

end Sys2Proof.Machine
end

