-- ==== Sys2Proof/Machine/Sections.lean ====
section
/-! DEFINITION. Marker scanner, section requests and passage counting (chapter 1). -/

namespace Sys2Proof.Machine

/-! ## Marker scanner (1.1) -/

/-- The hold-off time in 10 ms units (R3). -/
def MarkerScanner.units (k : MarkerScanner) : Nat := k.holdOff / 10

/-- The time in 10 ms units since `since`, modulo 65536 (R2, log entry 13). -/
def sinceUnits (now since : Half) : Nat := (now - since).toNat

/-- The inactive wait has lasted the hold-off time (R3). -/
def Marker.waited (units : Nat) (now : Half) (m : Marker) : Bool :=
  match m.since with
  | some t => units ≤ sinceUnits now t
  | none => false

/-- The marker's stored level; none while it is not known. -/
def Marker.level? (m : Marker) : Option Bool :=
  match m.state with
  | .unknown => none
  | .active => some true
  | .settling => some false
  | .armed => some false

/-- Whether an activation now is a marker pulse (R3). -/
def Marker.pulses (units : Nat) (now : Half) (m : Marker) : Bool :=
  m.state = .armed || (m.state = .settling && m.waited units now)

/-- The marker after a report of its level: a transition, a first level (R6), or nothing (R1). -/
def Marker.report (units : Nat) (now : Half) (level : Bool) (m : Marker) : Marker :=
  if m.level? = some level then m
  else if level then
    { state := .active, since := none, lastPulse := if m.pulses units now then some now else m.lastPulse }
  else { m with state := .settling, since := some now }

/-- Whether the report of an active level is a pulse. -/
def Marker.reportPulses (units : Nat) (now : Half) (level : Bool) (m : Marker) : Bool := level && m.pulses units now

/-- A SETTLING or ARMED marker tested against the hold-off time (R3, R4). -/
def Marker.retest (units : Nat) (now : Half) (m : Marker) : Marker :=
  match m.state with
  | .settling => if m.waited units now then { m with state := .armed } else m
  | .armed => if m.waited units now then m else { m with state := .settling }
  | _ => m

/-! ## Passage counting (1.4) -/

/-- R17: an entry, with the holder's member count. -/
def Holding.countIn (members : Nat) (time : Half) (h : Holding) : SectionStatus :=
  if h.entered < members then
    .occupied { h with entered := h.entered + 1, log := h.log ++ [{ member := h.entered + 1, time := time }] }
  else .fault .countOver (some h)

/-- R18: an exit. -/
def Holding.countOut (members : Nat) (was : SectionStatus) (h : Holding) : SectionStatus :=
  if h.exited < h.entered then
    if h.exited + 1 = members then .free
    else
      match was with
      | .granted _ => .granted { h with exited := h.exited + 1 }
      | _ => .occupied { h with exited := h.exited + 1 }
  else .fault .countUnder (some h)

/-- The holding of a section that is GRANTED or OCCUPIED. -/
def SectionStatus.inService : SectionStatus → Option Holding
  | .granted h => some h
  | .occupied h => some h
  | _ => none

/-- A held section that has the marker as its entry or its exit end takes the pulse (R16). -/
def Section.takes (m : MarkerId) (v : Section) : Bool :=
  match v.status.inService, v.defn with
  | some h, some d => d.entryMarker h.dir = some m || d.exitMarker h.dir = some m
  | _, _ => false

/-- What a pulse does to a held section (R16 to R18). -/
def Section.counted (members : Nat) (m : MarkerId) (time : Half) (v : Section) : SectionStatus :=
  match v.status.inService, v.defn with
  | some h, some d =>
    if d.entryMarker h.dir = some m then h.countIn members time
    else if d.exitMarker h.dir = some m then h.countOut members v.status
    else v.status
  | _, _ => v.status

/-- A FREE section that names the marker (R19). -/
def Section.strays (m : MarkerId) (v : Section) : Bool :=
  v.status = .free && (match v.defn with | some d => d.names m | none => false)

/-- Member count of the convoy that holds the section; 0 without a holder. -/
def Road.holderMembers (r : Road) (v : Section) : Nat :=
  match v.status.holding with
  | some h => (r.convoy h.convoy).memberCount
  | none => 0

/-- One section after the pulse; `taken` tells whether a held section takes it. -/
def Road.pulsedSection (r : Road) (taken : Bool) (m : MarkerId) (time : Half) (v : Section) : Section :=
  if v.takes m then { v with status := v.counted (r.holderMembers v) m time }
  else if !taken && v.strays m then { v with status := .fault .stray none, earmark := none }
  else v

/-- Whether some held section takes a pulse at the marker. -/
def Road.taken (r : Road) (m : MarkerId) : Bool := (Table.entries r.sections).any fun e => e.2.takes m

/-- Every section after the pulse. -/
def Road.pulsed (r : Road) (m : MarkerId) (time : Half) : Table Section 64 :=
  Table.mapAll (fun _ v => r.pulsedSection (r.taken m) m time v) r.sections

/-- The member counted in by a pulse, from the section before and after it. -/
def countedIn (before after : Section) : Option (ConvoyId × Nat) :=
  match before.status.inService, after.status.inService with
  | some h, some h' => if h.entered < h'.entered then some (h.convoy, h'.entered) else none
  | _, _ => none

/-- The holder a pulse has released the section from. -/
def releasedFrom (before after : Section) : Option ConvoyId :=
  match before.status.inService with
  | some h => if after.status = .free then some h.convoy else none
  | none => none

/-- The numbers of the sections that meet a test of their state before and after the pulse. -/
def changedSections (before after : Table Section 64) (f : Section → Section → Bool) : List SectionId :=
  (List.finRange 64).filter fun i => f (Table.at before i) (Table.at after i)

/-- The report of one section to the convoy engine (R20). A counted exit that releases nothing changes nothing there. -/
def pulseReport (before : Road) (after : Table Section 64) (time : Half) (i : SectionId) (r : Road) : Road :=
  match countedIn (before.sect i) (Table.at after i) with
  | some (c, k) => entryReport (before.convoy c) c i k time r
  | none =>
    match releasedFrom (before.sect i) (Table.at after i) with
    | some c => releaseReport c i r
    | none => r

/-- A marker pulse with all its consequences on the road (R16 to R20). -/
def roadPulse (m : MarkerId) (time : Half) (before : Road) : Road :=
  let after := before.pulsed m time
  let faults := changedSections before.sections after fun b a => a.status.isFault && !b.status.isFault
  let strays := changedSections before.sections after fun b a => a.status = .fault .stray none && !b.status.isFault
  let released := changedSections before.sections after fun b a => (releasedFrom b a).isSome
  let unmarked := changedSections before.sections after fun b a => b.earmark.isSome && a.earmark.isNone
  let r := leaveHolder released { before with sections := after }
  let r := (r.raiseAll srcSectionFault (faults.map Fin.val)).raiseAll srcStrayPulse (strays.map Fin.val)
  let r := (List.finRange 64).foldl (fun r i => pulseReport before after time i r) r
  if released.isEmpty && unmarked.isEmpty then r else arbitrate r

def markerPulse (m : MarkerId) (p : Part) : Part :=
  (p.onRoad (roadPulse m p.markers.time)).reviewHalts

/-! ## Board reports -/

/-- One level of a board report (R1). -/
def markerLevel (m : MarkerId) (level : Bool) (p : Part) : Part :=
  let k := p.markers
  let v := Table.at k.markers m
  let p' := { p with markers := { k with markers := Table.put k.markers m (v.report k.units k.time level) } }
  if v.reportPulses k.units k.time level then markerPulse m p' else p'

/-- R1, R213. -/
def boardReport (board levels : Byte) (p : Part) : Part :=
  if board.toNat < 12 then
    (List.finRange 8).foldl
      (fun p k =>
        match index? 96 (8 * board.toNat + k.val) with
        | some m => markerLevel m (levels.getLsbD k.val) p
        | none => p)
      p
  else p

/-- The hold-off wait of a marker runs out: a SETTLING marker that has been inactive for the hold-off time becomes ARMED
(R3); otherwise nothing (log entry 8). -/
def holdOffExpiry (m : MarkerId) (p : Part) : Part :=
  let k := p.markers
  { p with markers := { k with markers := Table.upd k.markers m fun v =>
      if v.state = .settling then v.retest k.units k.time else v } }

/-- R2. -/
def markerTimeTick (p : Part) : Part := { p with markers := { p.markers with time := p.markers.time + 1 } }

/-- R39: the settle timer of a section runs out, if it runs. -/
def settleTimerExpiry (i : SectionId) (p : Part) : Part :=
  if p.road.timerRuns i then p.onRoad fun r => reviewSettling (stopTimer i r) else p

/-! ## SMK, QMK -/

/-- R4. -/
def smk (ms : Nat) (p : Part) : Part × Reply :=
  if 20 ≤ ms && ms ≤ 500 && ms % 10 = 0 then
    accept { p with markers := { p.markers with
      holdOff := ms, markers := Table.mapAll (fun _ v => v.retest (ms / 10) p.markers.time) p.markers.markers } }
  else refuse .badVal p

def answerSmk (body : List Byte) (p : Part) : Part × Reply :=
  match body with
  | [hi, lo] => smk (halfOf hi lo) p
  | _ => refuse .badLen p

def Marker.bytes (m : Marker) : List Byte := b8 (holdOffCode m.state) :: optH (m.lastPulse.map BitVec.toNat)

/-- The markers from `first` on, `count` of them. -/
def MarkerScanner.range (k : MarkerScanner) (first count : Nat) : List Marker :=
  (List.range count).filterMap fun j => (index? 96 (first + j)).map fun m => Table.at k.markers m

/-- R5. -/
def qmk (first count : Nat) (p : Part) : Part × Reply :=
  if 95 < first || count < 1 || 16 < count || 96 < first + count then refuse .badVal p
  else
    (p, Reply.okay (halfBytes p.markers.time.toNat ++ halfBytes p.markers.holdOff
      ++ listB Marker.bytes (p.markers.range first count)))

def answerQmk (body : List Byte) (p : Part) : Part × Reply :=
  match body with
  | [first, count] => qmk first.toNat count.toNat p
  | _ => refuse .badLen p

/-! ## SDEF (R9, R10) -/

/-- The junction fields of SDEF: none for a half of them (log entry 28); the inner none for no junction. -/
def SdefReq.junction? (q : SdefReq) : Option (Option (Nat × Nat)) :=
  if q.line = 0xFF && q.settle = 0xFFFF then some none
  else if q.line = 0xFF || q.settle = 0xFFFF then none
  else if q.settle ≤ 2000 && q.settle % 100 = 0 then some (some (q.line.toNat, q.settle)) else none

def SdefReq.patience? (q : SdefReq) : Option Nat :=
  if q.patience = 0xFF then some 3 else if 1 ≤ q.patience.toNat && q.patience.toNat ≤ 7 then some q.patience.toNat else none

/-- End B: present exactly when the kind is not DOCK, and different from end A. -/
def SdefReq.endB? (q : SdefReq) (kind : SectionKind) (endA : MarkerId) : Option (Option MarkerId) :=
  if kind = .dock then if q.endB = 0xFF then some none else none
  else
    match index? 96 q.endB.toNat with
    | some b => if b = endA then none else some (some b)
    | none => none

def SdefReq.allowed? (q : SdefReq) (kind : SectionKind) : Option (Option Dir) :=
  if kind = .oneWay then (dirOf? q.allowed.toNat).map some else if q.allowed = 0xFF then some none else none

/-- The third check of R9: the definition without its junction, and the junction line and settle time. -/
def SdefReq.fields? (q : SdefReq) : Option (SectionDef × Option (Nat × Nat)) :=
  match sectionKindOf? q.kind.toNat, index? 96 q.endA.toNat, q.patience?, q.junction? with
  | some kind, some endA, some patience, some j =>
    match q.endB? kind endA, q.allowed? kind with
    | some endB, some allowed => some ({ kind, endA, endB, allowed, junction := none, patience }, j)
    | _, _ => none
  | _, _, _, _ => none

/-- The fourth check of R9: the junction of an existing line that is configured OUTPUT with function JUNCTION. -/
def Road.junctionFor (r : Road) (line settle : Nat) : Option Junction :=
  match index? 16 line with
  | some l => if (r.line l).direction = .output && (r.line l).function = .junction then some { line := l, settle } else none
  | none => none

/-- States that SDEF accepts. -/
def SectionStatus.definable : SectionStatus → Bool
  | .undefined => true
  | .out _ => true
  | .free => true
  | _ => false

/-- The section is named by a step of the route of a convoy that is not VACANT. -/
def Road.routed (r : Road) (i : SectionId) : Bool :=
  (Table.entries r.convoys).any fun e => e.2.state.formed && e.2.route.any fun t => t.sec = i

/-- A defined section other than `i` names the line as its junction line. -/
def Road.lineNamed (r : Road) (i : SectionId) (l : LineId) : Bool :=
  (Table.entries r.sections).any fun e =>
    e.1 ≠ i && (match e.2.defn with | some d => d.junction.map Junction.line = some l | none => false)

/-- R10. -/
def Section.define (d : SectionDef) (v : Section) : Section :=
  { v with defn := some d, status := match v.status with | .undefined => .out .host | s => s }

/-- The last two checks of R9 and the effect of R10. -/
def defineSection (i : SectionId) (d : SectionDef) (p : Part) : Part × Reply :=
  let v := p.road.sect i
  if !v.queue.isEmpty || v.earmark.isSome || p.road.routed i then refuse .inUse p
  else if (match d.junction with | some j => p.road.lineNamed i j.line | none => false) then refuse .inUse p
  else accept (p.onRoad fun r => r.setSect i (v.define d))

def sdef (q : SdefReq) (p : Part) : Part × Reply :=
  match index? 64 q.sec.toNat with
  | none => refuse .badVal p
  | some i =>
    if !(p.road.sect i).status.definable then refuse .badState p
    else
      match q.fields? with
      | none => refuse .badVal p
      | some (d, none) => defineSection i d p
      | some (d, some (line, settle)) =>
        match p.road.junctionFor line settle with
        | none => refuse .badVal p
        | some j => defineSection i { d with junction := some j } p

def answerSdef (body : List Byte) (p : Part) : Part × Reply :=
  match readSdef body with
  | some q => sdef q p
  | none => refuse .badLen p

/-! ## SOUT (R11, R12) -/

/-- OUT by the host, without a holder and without an earmark. -/
def Section.takenOut (v : Section) : Section := { v with status := .out .host, earmark := none }

/-- SOUT of a section without a holder; the removal of an earmark starts a pass (R27). -/
def takeOut (i : SectionId) (r : Road) : Road :=
  let r' := r.setSect i (r.sect i).takenOut
  if (r.sect i).earmark.isSome then arbitrate r' else r'

/-- A forced SOUT: the section leaves its holder, the engine repairs, and SECTION_LOST happens (R12, R44, R70). -/
def forceOut (c : ConvoyId) (i : SectionId) (r : Road) : Road :=
  joinCauses c sourceSectionLost (forcedLoss c i (leaveHolder [i] (r.setSect i (r.sect i).takenOut)))

def sout (sec force : Byte) (p : Part) : Part × Reply :=
  match index? 64 sec.toNat, flagOf? force.toNat with
  | some i, some force =>
    if (p.road.sect i).status = .undefined then refuse .badState p
    else
      match (p.road.sect i).status.holding with
      | none => accept (p.onRoad (takeOut i)).reviewHalts
      | some h => if force then accept (p.onRoad (forceOut h.convoy i)).reviewHalts else refuse .inUse p
  | _, _ => refuse .badVal p

def answerSout (body : List Byte) (p : Part) : Part × Reply :=
  match body with
  | [sec, force] => sout sec force p
  | _ => refuse .badLen p

/-! ## SRST (R13, R14) -/

/-- A section becomes FREE by SRST and a pass runs (R13). -/
def restore (i : SectionId) (r : Road) : Road := arbitrate (freeSection i r)

/-- The restored state of a section that stays held (R14). -/
def Holding.restoredStatus (entered exited : Nat) (h : Holding) : SectionStatus :=
  let h' := { h with entered := entered, exited := exited, log := [] }
  if entered = 0 then .granted h' else .occupied h'

/-- SRST of a section in FAULT with holder, its counts accepted (R14, R68). -/
def restoreHeld (i : SectionId) (h : Holding) (entered exited : Nat) (r : Road) : Road :=
  if exited = (r.convoy h.convoy).memberCount then
    arbitrate (releaseReport h.convoy i (leaveHolder [i] (freeSection i r)))
  else
    restorationReport h.convoy i entered (r.setSect i { r.sect i with status := h.restoredStatus entered exited })

def srst (sec : Byte) (entered exited : Nat) (p : Part) : Part × Reply :=
  match index? 64 sec.toNat with
  | none => refuse .badVal p
  | some i =>
    match (p.road.sect i).status with
    | .out _ => accept (p.onRoad (restore i)).reviewHalts
    | .fault _ none => accept (p.onRoad (restore i)).reviewHalts
    | .fault _ (some h) =>
      if entered < exited || (p.road.convoy h.convoy).memberCount < entered then refuse .badVal p
      else accept (p.onRoad (restoreHeld i h entered exited)).reviewHalts
    | _ => refuse .badState p

def answerSrst (body : List Byte) (p : Part) : Part × Reply :=
  match body with
  | [sec, entered, exited] => srst sec entered.toNat exited.toNat p
  | _ => refuse .badLen p

/-! ## SQRY (R15, log entry 16) -/

def SectionDef.bytes (d : SectionDef) : List Byte :=
  [b8 (sectionKindCode d.kind), b8 d.endA.val] ++ optB (d.endB.map Fin.val) ++ optB (d.allowed.map dirCode)
    ++ optB (d.junction.map fun j => j.line.val) ++ optH (d.junction.map Junction.settle) ++ [b8 d.patience]

def SectionStatus.outCause? : SectionStatus → Option OutCause
  | .out k => some k
  | _ => none

def SectionStatus.faultCause? : SectionStatus → Option FaultCause
  | .fault k _ => some k
  | _ => none

def LogEntry.bytes (e : LogEntry) : List Byte := b8 e.member :: halfBytes e.time.toNat

/-- Holder, passage direction, counts and entry log. -/
def holdingBytes (h : Option Holding) : List Byte :=
  optB (h.map fun h => h.convoy.val) ++ optB (h.map fun h => dirCode h.dir)
    ++ [b8 ((h.map Holding.entered).getD 0), b8 ((h.map Holding.exited).getD 0)]
    ++ listB LogEntry.bytes ((h.map Holding.log).getD [])

/-- The reply body for a section; for an UNDEFINED one every field but the state is absent. -/
def Section.bytes (v : Section) : List Byte :=
  match v.defn with
  | none => List.replicate 8 0xFF ++ [b8 (sectionStatusCode v.status)] ++ List.replicate 9 0xFF ++ [0]
  | some d =>
    d.bytes ++ [b8 (sectionStatusCode v.status)] ++ optB (v.status.outCause?.map outCauseCode)
      ++ optB (v.status.faultCause?.map faultCauseCode) ++ holdingBytes v.status.holding
      ++ optB (v.earmark.map Fin.val) ++ [flagB v.settle.isSome] ++ listB (fun c => [b8 c.val]) v.queue

def sqry (sec : Byte) (p : Part) : Part × Reply :=
  match index? 64 sec.toNat with
  | some i => (p, Reply.okay (p.road.sect i).bytes)
  | none => refuse .badVal p

def answerSqry (body : List Byte) (p : Part) : Part × Reply :=
  match body with
  | [sec] => sqry sec p
  | _ => refuse .badLen p

end Sys2Proof.Machine
end

