-- ==== Sys2Proof/Machine/Convoys.lean ====
section
/-! DEFINITION. The convoy requests FCV, DCV, LRT, RUN, STP, TCV and QCV (chapter 3). -/

namespace Sys2Proof.Machine

/-! ## FCV (R53, R54) -/

/-- One member of FCV's list: slot 0 to 23 and trailer count 0 to 2. -/
def memberOf? (e : Byte × Byte) : Option Member :=
  match index? 24 e.1.toNat with
  | some slot =>
    if e.2.toNat ≤ 2 then some { slot, trailers := e.2.toNat, trim := 0, lastGap := none } else none
  | none => none

/-- The values of an FCV request that its first check accepts. -/
structure Formation where
  convoy : ConvoyId
  home : SectionId
  dir : Dir
  travel : Travel
  source : DemandSource
  members : List Member
deriving DecidableEq, Repr

/-- The first check of R53. -/
def FcvReq.formation? (q : FcvReq) : Option Formation :=
  match index? 8 q.convoy.toNat, index? 64 q.home.toNat, dirOf? q.dir.toNat, travelOf? q.travel.toNat,
      demandSourceOf? q.source.toNat q.driver.toNat, q.members.mapM memberOf? with
  | some convoy, some home, some dir, some travel, some source, some members =>
    if 1 ≤ members.length && members.length ≤ 6 then some { convoy, home, dir, travel, source, members } else none
  | _, _, _, _, _, _ => none

/-- The slot stands in the member list of a convoy other than `c`. -/
def Road.slotTaken (r : Road) (c : ConvoyId) (i : SlotId) : Bool :=
  (Table.entries r.convoys).any fun e => e.1 ≠ c && e.2.members.any fun m => m.slot = i

/-- The third check of R53: a slot twice in the list, or in another convoy's list. -/
def Road.slotsInUse (r : Road) (f : Formation) : Bool :=
  !(f.members.map Member.slot).Nodup || f.members.any fun m => r.slotTaken f.convoy m.slot

/-- The direction a ONE_WAY section allows (R53, R57). -/
def SectionDef.allows (d : SectionDef) (dir : Dir) : Bool :=
  match d.allowed with
  | some a => a = dir
  | none => true

/-- The branch a junction line presently carries. -/
def Road.carried (r : Road) (j : Junction) : Branch := if (r.line j.line).junction then .turn else .straight

/-- The branch of FCV's home step. -/
def Road.homeBranch (r : Road) (d : SectionDef) : Branch :=
  match d.junction with
  | some j => r.carried j
  | none => .plain

/-- The convoy R54 forms; the halt record is left as it stands. -/
def Convoy.form (f : Formation) (branch : Branch) (v : Convoy) : Convoy :=
  { Convoy.vacant with
      state := .plain .standing, members := f.members, source := f.source,
      route := [{ sec := f.home, dir := f.dir, branch, link := false, travel := f.travel, status := .held }],
      halt := v.halt }.refilled

/-- The home section R54 makes OCCUPIED. -/
def Section.home (f : Formation) (v : Section) : Section :=
  { v with
      status := .occupied { convoy := f.convoy, dir := f.dir, entered := f.members.length, exited := 0, log := [] },
      earmark := none }

/-- R54; the removal of an earmark starts a pass. -/
def formConvoy (f : Formation) (d : SectionDef) (r : Road) : Road :=
  let r' := (r.updConvoy f.convoy (Convoy.form f (r.homeBranch d))).setSect f.home ((r.sect f.home).home f)
  if (r.sect f.home).earmark.isSome then arbitrate r' else r'

def fcv (q : FcvReq) (p : Part) : Part × Reply :=
  match q.formation? with
  | none => refuse .badVal p
  | some f =>
    if (p.road.convoy f.convoy).state.formed then refuse .badState p
    else if p.road.slotsInUse f then refuse .inUse p
    else
      match (p.road.sect f.home).status, (p.road.sect f.home).defn with
      | .free, some d =>
        if d.allows f.dir then accept (p.onRoad (formConvoy f d)).reviewHalts else refuse .badVal p
      | _, _ => refuse .badState p

def answerFcv (body : List Byte) (p : Part) : Part × Reply :=
  match readFcv body with
  | some q => fcv q p
  | none => refuse .badLen p

/-! ## DCV (R55, R46) -/

/-- A held section of a disbanded convoy. -/
def disbandSection (i : SectionId) (r : Road) : Road := r.setSect i { r.sect i with status := .out .disbanded }

def disband (c : ConvoyId) (r : Road) : Road :=
  let r := withdrawAsked c r
  let held := r.heldSections c
  (leaveHolder held (held.foldl (fun r i => disbandSection i r) r)).setConvoy c Convoy.vacant

def dcv (convoy : Byte) (p : Part) : Part × Reply :=
  match index? 8 convoy.toNat with
  | none => refuse .badVal p
  | some c =>
    if (p.road.convoy c).state = .plain .standing || (p.road.convoy c).state = .plain .arrived then
      accept (p.onRoad (disband c)).reviewHalts
    else refuse .badState p

def answerDcv (body : List Byte) (p : Part) : Part × Reply :=
  match body with
  | [c] => dcv c p
  | _ => refuse .badLen p

/-! ## LRT (R56 to R58) -/

/-- A step from its section byte and its step flags (R211), with the status AHEAD. -/
def stepOf? (e : Byte × Byte) : Option RouteStep :=
  let flags := e.2.toNat
  match index? 64 e.1.toNat, dirOf? (flags % 2), branchOf? (flags / 2 % 4), flagOf? (flags / 8 % 2),
      travelOf? (flags / 16) with
  | some sec, some dir, some branch, some link, some travel =>
    some { sec, dir, branch, link, travel, status := .ahead }
  | _, _, _, _, _ => none

/-- The step flags byte (R211). -/
def RouteStep.flags (t : RouteStep) : Byte :=
  b8 (dirCode t.dir + 2 * branchCode t.branch + 8 * t.link.toNat + 16 * travelCode t.travel)

/-- The values of an LRT request that its first check accepts (R56). -/
def LrtReq.route? (q : LrtReq) : Option (ConvoyId × List RouteStep) :=
  match index? 8 q.convoy.toNat, q.steps.mapM stepOf? with
  | some c, some steps => if 1 ≤ steps.length && steps.length ≤ 16 then some (c, steps) else none
  | _, _ => none

/-- The section in which the whole of a STANDING or ARRIVED convoy stands, where R56 allows a route. -/
def Road.standsIn (r : Road) (c : ConvoyId) : Option (SectionId × Holding) :=
  let v := r.convoy c
  if (v.state = .plain .standing || v.state = .plain .arrived) && !r.settling.any (fun t => t.convoy = c) then
    match r.heldSections c with
    | [i] =>
      match (r.sect i).status with
      | .occupied h => if h.entered = v.memberCount && h.exited = 0 then some (i, h) else none
      | _ => none
    | _ => none
  else none

/-- Checks 2, 4 and 8 of R57, of one step with its section's definition. -/
def RouteStep.fits (t : RouteStep) (d : SectionDef) : Bool :=
  d.allows t.dir && (decide (t.branch = .plain) == d.junction.isNone)

/-- Check 5 of R57, of step `n` of a route of `len` steps. -/
def RouteStep.dockFits (t : RouteStep) (n len : Nat) (d : SectionDef) : Bool :=
  if d.kind = .dock && 2 ≤ len then
    if n = 0 then t.dir = .bToA && t.travel = .reverse else t.dir = .aToB && n + 1 = len
  else true

/-- Every step with its number and its section's definition, if every section is defined (check 2). -/
def Road.defined? (r : Road) (steps : List RouteStep) : Option (List (RouteStep × SectionDef)) :=
  steps.mapM fun t => (r.sect t.sec).defn.map fun d => (t, d)

/-- Check 6 of R57: each step begins at the marker the step before ends at. -/
def chained : List (RouteStep × SectionDef) → Bool
  | a :: b :: rest =>
    (a.2.exitMarker a.1.dir).isSome && a.2.exitMarker a.1.dir = b.2.entryMarker b.1.dir && chained (b :: rest)
  | _ => true

/-- Four consecutive steps all carry the link flag. -/
def fourLinks : List Bool → Bool
  | a :: b :: c :: d :: rest => (a && b && c && d) || fourLinks (b :: c :: d :: rest)
  | _ => false

/-- Check 7 of R57. -/
def linksFit (links : List Bool) : Bool :=
  links.head? = some false && links.getLast? = some false && !fourLinks links

/-- Check 9 of R57. -/
def Road.firstBranchFits (r : Road) : List (RouteStep × SectionDef) → Bool
  | (t, d) :: _ => (match d.junction with | some j => t.branch = r.carried j | none => true)
  | [] => false

/-- R57, for a convoy that holds section `i`. -/
def Road.routeValid (r : Road) (i : SectionId) (steps : List RouteStep) : Bool :=
  match r.defined? steps with
  | none => false
  | some ds =>
    (steps.head?.map RouteStep.sec = some i)
      && (steps.map RouteStep.sec).Nodup
      && ds.all (fun e => e.1.fits e.2)
      && (List.range ds.length).all (fun n =>
           match ds[n]? with | some e => e.1.dockFits n ds.length e.2 | none => true)
      && chained ds
      && linksFit (steps.map RouteStep.link)
      && r.firstBranchFits ds

/-- Step 0 HELD, the others AHEAD. -/
def freshRoute : List RouteStep → List RouteStep
  | [] => []
  | t :: ts => { t with status := .held } :: ts.map fun u => { u with status := .ahead }

/-- The convoy with its new route (R58). -/
def Convoy.rerouted (steps : List RouteStep) (v : Convoy) : Convoy :=
  { v with state := .plain .standing, route := freshRoute steps, lead := 0, tail := 0, furthest := 0 }

def Member.untrimmed (m : Member) : Member := { m with trim := 0, lastGap := none }

/-- The convoy whose direction a route flips (R58). -/
def Convoy.flipped (v : Convoy) : Convoy := { v with members := v.members.reverse.map Member.untrimmed }.refilled

/-- R58. -/
def loadRoute (c : ConvoyId) (i : SectionId) (h : Holding) (steps : List RouteStep) (r : Road) : Road :=
  let r := r.updConvoy c (Convoy.rerouted steps)
  match steps with
  | [] => r
  | t :: _ =>
    if t.dir = h.dir then r
    else (r.setSect i { r.sect i with status := .occupied { h with dir := t.dir, log := [] } }).updConvoy c Convoy.flipped

def lrt (q : LrtReq) (p : Part) : Part × Reply :=
  match q.route? with
  | none => refuse .badVal p
  | some (c, steps) =>
    match p.road.standsIn c with
    | none => refuse .badState p
    | some (i, h) =>
      if p.road.routeValid i steps then accept (p.onRoad (loadRoute c i h steps)) else refuse .badRoute p

def answerLrt (body : List Byte) (p : Part) : Part × Reply :=
  match readLrt body with
  | some q => lrt q p
  | none => refuse .badLen p

/-! ## RUN, STP (R59, R60) -/

/-- The conditions of R59 and R168: STANDING, with the lead before the last step and nothing held beyond it. -/
def Convoy.startable (v : Convoy) : Bool :=
  v.state = .plain .standing && v.lead < v.lastStep && !v.holdsBeyondLead

def run (convoy : Byte) (p : Part) : Part × Reply :=
  match index? 8 convoy.toNat with
  | none => refuse .badVal p
  | some c =>
    if !(p.road.convoy c).startable then refuse .badState p
    else if p.parkHold then refuse .latched p
    else accept (p.onRoad (startConvoy c)).reviewHalts

def answerRun (body : List Byte) (p : Part) : Part × Reply :=
  match body with
  | [c] => run c p
  | _ => refuse .badLen p

/-- WAITING, RUNNING or HALTED. -/
def ConvoyState.stoppable : ConvoyState → Bool
  | .plain .waiting => true
  | .plain .running => true
  | .halted _ => true
  | _ => false

/-- R60. -/
def stopConvoy (c : ConvoyId) (r : Road) : Road :=
  (handBack c (withdrawAsked c r)).updConvoy c (setBase standStill)

def stp (convoy : Byte) (p : Part) : Part × Reply :=
  match index? 8 convoy.toNat with
  | none => refuse .badVal p
  | some c =>
    if (p.road.convoy c).state.stoppable then accept (p.onRoad (stopConvoy c)).reviewHalts else refuse .badState p

def answerStp (body : List Byte) (p : Part) : Part × Reply :=
  match body with
  | [c] => stp c p
  | _ => refuse .badLen p

/-! ## TCV (R61) -/

/-- A field that is absent or meets `ok`. -/
def fieldOk (f : Option Nat) (ok : Nat → Bool) : Bool := f.all ok

def sourceField (n : Nat) : Option DemandSource := demandSourceOf? (n / 256) (n % 256)

def TcvReq.valuesOk (q : TcvReq) : Bool :=
  fieldOk q.priority (· ≤ 15) && fieldOk q.lag (· ≤ 15) && fieldOk q.gapMin (· ≤ 6000) && fieldOk q.gapMax (· ≤ 6000)
    && fieldOk q.trimStep (fun n => 1 ≤ n && n ≤ 5) && fieldOk q.source (fun n => (sourceField n).isSome)
    && fieldOk q.cruise (· ≤ 100) && fieldOk q.ramp (fun n => 1 ≤ n && n ≤ 20)

/-- The demand source after a change; one that differs sets the timetable demand to 0 (R61, R168, log entry 27). -/
def Convoy.withSource (s : DemandSource) (v : Convoy) : Convoy :=
  { v with source := s, ttDemand := if v.source = s then v.ttDemand else 0 }

def Convoy.tuned (q : TcvReq) (v : Convoy) : Convoy :=
  let v := v.withSource ((q.source.bind sourceField).getD v.source)
  let v := { v with priority := q.priority.getD v.priority, gapMin := q.gapMin.getD v.gapMin,
                    gapMax := q.gapMax.getD v.gapMax, trimStep := q.trimStep.getD v.trimStep,
                    cruise := q.cruise.getD v.cruise, ramp := q.ramp.getD v.ramp }
  match q.lag with
  | some n => { v with lag := n }.refilled
  | none => v

def tcv (q : TcvReq) (p : Part) : Part × Reply :=
  match index? 8 q.convoy.toNat with
  | none => refuse .badVal p
  | some c =>
    let v := p.road.convoy c
    if !q.valuesOk then refuse .badVal p
    else if !v.state.formed then refuse .badState p
    else if q.gapMax.getD v.gapMax < q.gapMin.getD v.gapMin then refuse .badVal p
    else accept (p.onRoad fun r => r.updConvoy c (Convoy.tuned q)).reviewHalts

def answerTcv (body : List Byte) (p : Part) : Part × Reply :=
  match readTcv body with
  | some q => tcv q p
  | none => refuse .badLen p

/-! ## QCV (R72, R110, log entry 22) -/

/-- A field that is absent for a VACANT convoy. -/
def Convoy.whenFormed (v : Convoy) (n : Nat) : List Byte := optB (if v.state.formed then some n else none)

/-- The pending request, as the convoy record and the road interlock hold it. -/
def pendingBytes (asked : Option (Nat × Nat)) (q : Option GroupRequest) : List Byte :=
  optB (asked.map Prod.fst) ++ optB (asked.map Prod.snd) ++ optH (q.map GroupRequest.arrival)
    ++ optB (q.map GroupRequest.passed) ++ optB (q.map fun q => q.promoted.toNat)

def HaltRecord.bytes (h : HaltRecord) : List Byte :=
  halfBytes h.enabled.toNat ++ halfBytes h.causes.toNat
    ++ [b8 (throttleActionCode h.throttle), b8 (lightsActionCode h.lights), b8 (restartModeCode h.restart), flagB h.rearm]

def ConvoyState.return? : ConvoyState → Option BaseState
  | .halted b => some b
  | _ => none

/-- Part 0 of the reply (R72, R110). That the list of the active level sources is one source mask, as R212 has a set of halt
sources, and no count byte with entries, is the model's choice (log entry 22). -/
def Convoy.partZero (q : Option GroupRequest) (active : SourceSet) (v : Convoy) : List Byte :=
  [b8 (convoyStateCode v.state)] ++ optB (v.state.return?.map returnStateCode) ++ [b8 v.priority]
    ++ demandSourceBytes v.source ++ [b8 v.hostSpeed, b8 v.cruise, b8 v.ramp] ++ halfBytes v.ttDemand ++ [b8 v.lag]
    ++ halfBytes v.gapMin ++ halfBytes v.gapMax ++ [b8 v.trimStep]
    ++ v.whenFormed v.lead ++ v.whenFormed v.tail ++ v.whenFormed v.furthest
    ++ pendingBytes v.asked q ++ v.halt.bytes ++ halfBytes active.toNat

def Member.bytes (m : Member) : List Byte :=
  [b8 m.slot.val, b8 m.trailers, signedB m.trim] ++ optH (m.lastGap.map BitVec.toNat)

def RouteStep.bytes (t : RouteStep) : List Byte := [b8 t.sec.val, t.flags, b8 (stepStatusCode t.status)]

/-- The reply body of part `k`; none above 4. -/
def Part.convoyPart (p : Part) (c : ConvoyId) (k : Nat) : Option (List Byte) :=
  let v := p.road.convoy c
  match k with
  | 0 => some (v.partZero (p.road.request c) (activeLevels p.cells p.drivers c p.road))
  | 1 => some (listB Member.bytes v.members)
  | 2 => some (listB RouteStep.bytes v.route)
  | 3 => some (listB (fun n => [b8 n]) (v.history.take 40))
  | 4 => some (listB (fun n => [b8 n]) (v.history.drop 40))
  | _ => none

def qcv (convoy part : Byte) (p : Part) : Part × Reply :=
  match index? 8 convoy.toNat with
  | none => refuse .badVal p
  | some c =>
    match p.convoyPart c part.toNat with
    | some body => (p, Reply.okay body)
    | none => refuse .badVal p

def answerQcv (body : List Byte) (p : Part) : Part × Reply :=
  match body with
  | [c, k] => qcv c k p
  | _ => refuse .badLen p

end Sys2Proof.Machine
end

