-- ==== Sys2Proof/Machine/Clock.lean ====
section
/-! DEFINITION. The layout clock and the departures: scale seconds, minute changes, and SCK, RCK, ADJ, QCK, SDP and QDP
(chapter 9). -/

namespace Sys2Proof.Machine

/-! ## Departures (R166 to R170) -/

def fits (field : Option Nat) (n : Nat) : Bool :=
  match field with
  | some k => k = n
  | none => true

/-- R166. -/
def Departure.due (k : LayoutClock) (e : Departure) : Bool :=
  e.enabled && fits e.day k.day && fits e.hour k.hour && fits e.minute k.minute

/-- The test of R168 but for the park hold. -/
def Convoy.departs (v : Convoy) : Bool := v.startable && v.lead = 0

/-- The tuning of an honoured START (R168). -/
def Convoy.underTimetable (cruise ramp : Nat) (v : Convoy) : Convoy :=
  { v with source := .timetable, cruise := cruise, ramp := ramp, ttDemand := 0 }

/-- An honoured START. -/
def depart (c : ConvoyId) (e : Departure) (p : Part) : Part :=
  (p.onRoad fun r => startConvoy c (r.updConvoy c (Convoy.underTimetable e.cruise e.ramp))).reviewHalts

/-- A missed START (R169). -/
def missed (i : DepartureId) (p : Part) : Part :=
  { p with
      departures := Table.upd p.departures i fun e => { e with missed := countUp 255 e.missed },
      road := p.road.raise srcDepartureMissed (subject i.val) }

/-- START (R168, R169). -/
def startDeparture (i : DepartureId) (e : Departure) (p : Part) : Part :=
  match e.convoy with
  | some c => if (p.road.convoy c).departs && !p.parkHold then depart c e p else missed i p
  | none => missed i p

/-- R167. -/
def fireDeparture (i : DepartureId) (p : Part) : Part :=
  let e := Table.at p.departures i
  let p := { p with
    departures := Table.upd p.departures i fun e => { e with fired := true },
    road := p.road.raise srcDepartureFired (subject i.val) }
  match e.action with
  | .start => startDeparture i e p
  | .wake => wakeTrigger p
  | .resume => resumeTrigger p
  | .signal => p

/-- The entries in ascending number; each matching one fires before the next is examined (R166). -/
def fireDepartures (p : Part) : Part :=
  (List.finRange 8).foldl
    (fun p i => if (Table.at p.departures i).due p.clock then fireDeparture i p else p) p

/-! ## The clock (R158 to R160) -/

def LayoutClock.carryDay (k : LayoutClock) : LayoutClock := { k with day := if k.day = 7 then 1 else k.day + 1 }

def LayoutClock.carryHour (k : LayoutClock) : LayoutClock :=
  if k.hour = 23 then { k with hour := 0 }.carryDay else { k with hour := k.hour + 1 }

/-- The carry into the minute. -/
def LayoutClock.carryMinute (k : LayoutClock) : LayoutClock :=
  if k.minute = 59 then { k with minute := 0 }.carryHour else { k with minute := k.minute + 1 }

/-- R160. -/
def ClockPulses.mark (minute : Nat) (k : ClockPulses) : ClockPulses :=
  { minute := true, quarter := k.quarter || minute % 15 = 0, hour := k.hour || minute = 0 }

/-- A minute change, the scale time having taken its new value (R159). -/
def minuteChange (p : Part) : Part :=
  fireDepartures
    { p with departures := Table.mapAll (fun _ e => { e with fired := false }) p.departures,
             pulses := p.pulses.mark p.clock.minute }

/-- The millisecond under way brings the fraction of a RUNNING clock to 1000 (R158). -/
def LayoutClock.secondDue (k : LayoutClock) : Bool := k.running && 1000 ≤ k.fraction + k.ratio

/-- The clock at the moment a scale second passes, before the second rises (log entry 10). -/
def LayoutClock.ticked (k : LayoutClock) : LayoutClock := { k with fraction := k.fraction + k.ratio - 1000 }

/-- R158, R159; nothing while no second is due, as after SCK, ADJ or a stop taken first (R164, log entry 8). -/
def scaleSecond (p : Part) : Part :=
  if p.clock.secondDue then
    let k := p.clock.ticked
    if k.second = 59 then minuteChange { p with clock := { k with second := 0 }.carryMinute }
    else { p with clock := { k with second := k.second + 1 } }
  else p

/-! ## SCK, ADJ, RCK, QCK (R161 to R165) -/

def sck (day hour minute second ratio : Nat) (p : Part) : Part × Reply :=
  if 1 ≤ day && day ≤ 7 && hour ≤ 23 && minute ≤ 59 && second ≤ 59
      && (ratio = 0xFF || (1 ≤ ratio && ratio ≤ 12)) then
    accept { p with clock := { p.clock with
      day, hour, minute, second, fraction := 0, ratio := (noneOr ratio).getD p.clock.ratio } }
  else refuse .badVal p

def answerSck (body : List Byte) (p : Part) : Part × Reply :=
  match body with
  | [d, h, m, s, ratio] => sck d.toNat h.toNat m.toNat s.toNat ratio.toNat p
  | _ => refuse .badLen p

/-- R162. -/
def adj (p : Part) : Part × Reply :=
  let k := { p.clock with second := 0, fraction := 0 }
  if p.clock.second < 30 then accept { p with clock := k } else accept (minuteChange { p with clock := k.carryMinute })

def answerAdj (body : List Byte) (p : Part) : Part × Reply :=
  match body with
  | [] => adj p
  | _ => refuse .badLen p

/-- The running flag: 0 RUNNING, 1 STOPPED (log entry 14). -/
def rck (flag : Nat) (p : Part) : Part × Reply :=
  match flag with
  | 0 => accept { p with clock := { p.clock with running := true } }
  | 1 => accept { p with clock := { p.clock with running := false } }
  | _ => refuse .badVal p

def answerRck (body : List Byte) (p : Part) : Part × Reply :=
  match body with
  | [flag] => rck flag.toNat p
  | _ => refuse .badLen p

/-- The real time in ms until the next minute change (R165). -/
def LayoutClock.untilMinute (k : LayoutClock) : Nat := ((60 - k.second) * 1000 - k.fraction + k.ratio - 1) / k.ratio

def LayoutClock.bytes (k : LayoutClock) : List Byte :=
  [b8 k.day, b8 k.hour, b8 k.minute, b8 k.second] ++ halfBytes k.fraction
    ++ [b8 k.ratio, if k.running then 0 else 1] ++ optH (if k.running then some k.untilMinute else none)

def answerQck (body : List Byte) (p : Part) : Part × Reply :=
  match body with
  | [] => (p, Reply.okay p.clock.bytes)
  | _ => refuse .badLen p

/-! ## SDP, QDP (R172, R173) -/

/-- A field that is ANY or a number that meets `ok`. -/
def openField (ok : Nat → Bool) (n : Nat) : Option (Option Nat) :=
  if n = 0xFF then some none else if ok n then some (some n) else none

def dayField : Nat → Option (Option Nat) := openField fun n => 1 ≤ n && n ≤ 7
def hourField : Nat → Option (Option Nat) := openField (· ≤ 23)
def minuteField : Nat → Option (Option Nat) := openField (· ≤ 59)
def convoyField (n : Nat) : Option (Option ConvoyId) := if n = 0xFF then some none else (index? 8 n).map some

def SdpReq.valuesOk (q : SdpReq) : Bool :=
  reads flagOf? q.enable && reads dayField q.day && reads hourField q.hour && reads minuteField q.minute
    && reads departureActionOf? q.action && reads convoyField q.convoy && q.cruise.all (· ≤ 100)
    && q.ramp.all fun n => 1 ≤ n && n ≤ 20

/-- A change of day, hour, minute or action (log entry 27). -/
def Departure.moved (old new : Departure) : Bool :=
  old.day ≠ new.day || old.hour ≠ new.hour || old.minute ≠ new.minute || old.action ≠ new.action

/-- The resulting entry, its fired flag and missed count still the old ones. -/
def Departure.set (q : SdpReq) (e : Departure) : Departure :=
  { e with
      enabled := newOr flagOf? q.enable e.enabled, day := newOr dayField q.day e.day,
      hour := newOr hourField q.hour e.hour, minute := newOr minuteField q.minute e.minute,
      action := newOr departureActionOf? q.action e.action, convoy := newOr convoyField q.convoy e.convoy,
      cruise := q.cruise.getD e.cruise, ramp := q.ramp.getD e.ramp }

/-- A convoy stands with START alone. -/
def Departure.consistent (e : Departure) : Bool := decide (e.action = .start) == e.convoy.isSome

/-- The entry R172 stores. -/
def Departure.stored (q : SdpReq) (e : Departure) : Departure :=
  { e.set q with
      fired := e.fired && !e.moved (e.set q), missed := if q.resetMissed then 0 else e.missed }

def sdp (q : SdpReq) (p : Part) : Part × Reply :=
  match index? 8 q.entry.toNat with
  | none => refuse .badVal p
  | some i =>
    if q.valuesOk && ((Table.at p.departures i).set q).consistent then
      accept { p with departures := Table.upd p.departures i (Departure.stored q) }
    else refuse .badVal p

def answerSdp (body : List Byte) (p : Part) : Part × Reply :=
  match readSdp body with
  | some q => sdp q p
  | none => refuse .badLen p

def Departure.bytes (e : Departure) : List Byte :=
  [flagB e.enabled] ++ optB e.day ++ optB e.hour ++ optB e.minute ++ [b8 (departureActionCode e.action)]
    ++ optB (e.convoy.map Fin.val) ++ [b8 e.cruise, b8 e.ramp, flagB e.fired, b8 e.missed]

def qdp (entry : Byte) (p : Part) : Part × Reply :=
  match index? 8 entry.toNat with
  | some i => (p, Reply.okay (Table.at p.departures i).bytes)
  | none => refuse .badVal p

def answerQdp (body : List Byte) (p : Part) : Part × Reply :=
  match body with
  | [i] => qdp i p
  | _ => refuse .badLen p

end Sys2Proof.Machine
end

