-- ==== Sys2Proof/Machine/Lines.lean ====
section
/-! DEFINITION. The accessory lines: pin changes, flash toggles, SLN, WLN and QLN (chapter 8). -/

namespace Sys2Proof.Machine

/-! ## Pin changes and flash toggles (R147, R151, R156) -/

def Part.line (p : Part) (l : LineId) : Line := p.road.line l

def Part.setLine (p : Part) (l : LineId) (v : Line) : Part := p.onRoad fun r => r.setLine l v

/-- The level of a line (R146). -/
def Part.level (p : Part) (l : LineId) : Bool := (p.line l).level p.parkHold p.cells

/-- An INPUT line with its wake flag set. -/
def Line.wakes (l : Line) : Bool := l.direction = .input && l.wake

/-- The part `q` has come of `p` by a change of line `l`: a rise of the level of a line that was and is an INPUT line with its
wake flag set is offered to the mode controller (R156, log entry 42). -/
def offerRise (l : LineId) (p q : Part) : Part :=
  if (p.line l).wakes && (q.line l).wakes && !p.level l && q.level l then wakeTrigger q else q

/-- A change of what stands on a line's wire. A driven line's pin is not read; the wire is followed all the same (log entry
12). -/
def linePinChange (l : LineId) (pin : PinState) (p : Part) : Part := offerRise l p (p.setLine l { p.line l with wire := pin })

/-- A due toggle of a running phase (R151). -/
def Line.toggled (l : Line) : Line :=
  match l.flash with
  | some f => { l with flash := some { phase := !f.phase, left := l.flashPeriod / 2 } }
  | none => l

def flashToggle (l : LineId) (p : Part) : Part := p.setLine l (p.line l).toggled

/-! ## SLN (R152) -/

def flashPeriodOk (n : Nat) : Bool := [500, 1000, 2000, 4000].contains n

def lineFunctionField (n : Nat) : Option LineFunction := lineFunctionOf? (n / 256) (n % 256)

def SlnReq.valuesOk (q : SlnReq) : Bool :=
  reads lineDirectionOf? q.direction && reads driveOf? q.drive && reads lineFunctionField q.function
    && reads flagOf? q.invert && reads flagOf? q.wake && q.period.all flashPeriodOk && reads (index? 8) q.gate

/-- The resulting record. -/
def Line.set (q : SlnReq) (l : Line) : Line :=
  { l with
      direction := newOr lineDirectionOf? q.direction l.direction, drive := newOr driveOf? q.drive l.drive,
      function := newOr lineFunctionField q.function l.function, invert := newOr flagOf? q.invert l.invert,
      wake := newOr flagOf? q.wake l.wake, flashPeriod := q.period.getD l.flashPeriod,
      flashGate := newOr (index? 8) q.gate l.flashGate }

/-- The section that names the line as its junction line. -/
def Road.namer (r : Road) (l : LineId) : Option SectionId :=
  (Table.numbers r.sections fun v =>
    match v.defn with
    | some d => d.junction.map Junction.line = some l
    | none => false).head?

/-- The third check of R152. -/
def Line.consistent (l : Line) : Bool :=
  match l.direction with
  | .input => l.function = .data
  | .output => !l.wake

/-- The SLN gives the line the function FLASH, a new flash period or a new flash gate (R151, log entry 27). -/
def Line.flashChanged (old new : Line) : Bool :=
  old.function ≠ new.function || old.flashPeriod ≠ new.flashPeriod || old.flashGate ≠ new.flashGate

/-- The flash phase after an SLN; under the park hold no phase runs (R152, R155). -/
def Line.settle (hold : Bool) (cells : Table Cell 8) (old new : Line) : Line :=
  if hold || new.function ≠ .flash then new.stopFlash
  else if old.flashChanged new then new.rephase cells
  else new

def sln (q : SlnReq) (p : Part) : Part × Reply :=
  match index? 16 q.line.toNat with
  | none => refuse .badVal p
  | some l =>
    let old := p.line l
    let new := old.set q
    if !q.valuesOk then refuse .badVal p
    else if (p.road.namer l).isSome && !(new.direction = .output && new.function = .junction) then refuse .inUse p
    else if !new.consistent then refuse .badVal p
    else accept (offerRise l p (p.setLine l (old.settle p.parkHold p.cells new)))

def answerSln (body : List Byte) (p : Part) : Part × Reply :=
  match readSln body with
  | some q => sln q p
  | none => refuse .badLen p

/-! ## WLN, QLN (R153, R154) -/

def wln (line data : Byte) (p : Part) : Part × Reply :=
  match index? 16 line.toNat, flagOf? data.toNat with
  | some l, some b => accept (p.setLine l { p.line l with data := b })
  | _, _ => refuse .badVal p

def answerWln (body : List Byte) (p : Part) : Part × Reply :=
  match body with
  | [line, data] => wln line data p
  | _ => refuse .badLen p

/-- The driven value of an OUTPUT line; none for an INPUT line. -/
def Line.drivenValue? (cells : Table Cell 8) (l : Line) : Option Bool :=
  match l.direction with
  | .output => some (l.drivenValue cells)
  | .input => none

/-- QLN's reply body; the flash phase goes without the time to its next toggle, the model's reading of R154 (log entry 21). -/
def Part.lineBytes (p : Part) (i : LineId) : List Byte :=
  let l := p.line i
  [b8 (lineDirectionCode l.direction), b8 (driveCode l.drive), flagB l.data] ++ lineFunctionBytes l.function
    ++ [flagB l.invert, flagB l.wake] ++ halfBytes l.flashPeriod ++ [b8 l.flashGate.val, flagB l.junction]
    ++ optB ((p.road.namer i).map Fin.val) ++ [flagB (p.level i)]
    ++ optB ((l.drivenValue? p.cells).map Bool.toNat) ++ optB (l.flash.map fun f => f.phase.toNat)
    ++ [flagB l.frozen.isSome] ++ optB (l.frozen.map fun f => pinCode f.pin)

def qln (line : Byte) (p : Part) : Part × Reply :=
  match index? 16 line.toNat with
  | some l => (p, Reply.okay (p.lineBytes l))
  | none => refuse .badVal p

def answerQln (body : List Byte) (p : Part) : Part × Reply :=
  match body with
  | [line] => qln line p
  | _ => refuse .badLen p

end Sys2Proof.Machine
end

