-- ==== Sys2Proof/Config.lean ====
section
/-! DEFINITION. What the manual fixes in the part without giving it, and the free values: constants without a
body, so that a claim holds whatever they are. -/

namespace Sys2Proof

/-- The part code QST reports, "fixed in the part" (R195). Log entry 19. -/
opaque Config.partCode : Byte

/-- The revision QST reports, "fixed in the part" (R195). Log entry 19. -/
opaque Config.partRevision : Byte

/-- The two bytes QSL gives for a stop time of this many milliseconds when the time does not fit a two-byte
field (R144, R210). Free value, log entry 20. -/
opaque Config.longStopTime : Nat → Half

/-- The address byte of a slot listed in the air frame whose pending settings set, applied at that frame start, made
its address none (R139, R142): one for each frame start and slot. Free value, log entry 23. -/
opaque Config.airAddressOfNone : Nat → Byte

end Sys2Proof
end

