-- ==== Sys2Proof/Machine/Notices.lean ====
section
/-! DEFINITION. The requests of the host link itself: ENN, DSN, PRN, CLN, QNT, QST and RST (11.4, 11.6). -/

namespace Sys2Proof.Machine

/-- The source a list entry names. -/
def sourceOf? (b : Byte) : Option SourceId := index? 21 b.toNat

/-- Applies `f` to each listed source. -/
def NoticeControl.eachOf (f : NoticeSource → NoticeSource) (srcs : List SourceId) (k : NoticeControl) : NoticeControl :=
  { k with sources := srcs.foldl (fun t i => Table.upd t i f) k.sources }

def Part.onNotices (f : NoticeControl → NoticeControl) (p : Part) : Part :=
  p.onRoad fun r => { r with notices := f r.notices }

/-- The checks ENN, DSN and CLN share; `f` acts on the listed sources (R200, R202). -/
def listRequest (body : List Byte) (f : List SourceId → Part → Part) (p : Part) : Part × Reply :=
  match readSources body with
  | none => refuse .badLen p
  | some bs =>
    match bs.mapM sourceOf? with
    | some srcs => accept (f srcs p)
    | none => refuse .badVal p

def NoticeSource.enable (on : Bool) (n : NoticeSource) : NoticeSource := { n with enabled := on }

/-- R200. -/
def answerEnn (body : List Byte) (p : Part) : Part × Reply :=
  listRequest body (fun srcs => Part.onNotices (NoticeControl.eachOf (NoticeSource.enable true) srcs)) p

/-- R200. -/
def answerDsn (body : List Byte) (p : Part) : Part × Reply :=
  listRequest body (fun srcs => Part.onNotices (NoticeControl.eachOf (NoticeSource.enable false) srcs)) p

/-- One entry of PRN: a source and a priority of 0 to 7. -/
def priorityOf? (e : Byte × Byte) : Option (SourceId × Nat) :=
  match sourceOf? e.1 with
  | some i => if e.2.toNat ≤ 7 then some (i, e.2.toNat) else none
  | none => none

/-- The later entry of a source stands (R201). -/
def NoticeControl.prioritised (es : List (SourceId × Nat)) (k : NoticeControl) : NoticeControl :=
  { k with sources := es.foldl (fun t e => Table.upd t e.1 fun n => { n with priority := e.2 }) k.sources }

def answerPrn (body : List Byte) (p : Part) : Part × Reply :=
  match readPriorities body with
  | none => refuse .badLen p
  | some es =>
    match es.mapM priorityOf? with
    | some es => accept (p.onNotices (NoticeControl.prioritised es))
    | none => refuse .badVal p

/-! ## QNT (R203, log entry 18) -/

/-- The sources that meet `f`, as a map of three bytes. -/
def NoticeControl.map (f : NoticeSource → Bool) (k : NoticeControl) : List Byte :=
  mapB 3 ((List.finRange 21).foldl (fun n i => if f (Table.at k.sources i) then n + 2 ^ i.val else n) 0)

/-- How many bytes the subject set of a source takes: as many as the highest number it may hold needs. -/
def subjectBytes (i : SourceId) : Nat :=
  if i.val ≤ 3 then 0 else if i.val ≤ 5 then 8 else if i.val ≤ 19 then 1 else 3

def NoticeControl.partZero (k : NoticeControl) : List Byte :=
  k.map NoticeSource.pending ++ k.map NoticeSource.enabled ++ k.map (fun n => n.pending && n.enabled)
    ++ k.map NoticeSource.announced ++ k.sources.toList.map (fun n => b8 n.priority) ++ [k.seq]

def NoticeControl.partOne (k : NoticeControl) : List Byte :=
  (List.finRange 21).flatMap fun i => mapB (subjectBytes i) (Table.at k.sources i).subjects.toNat

def answerQnt (body : List Byte) (p : Part) : Part × Reply :=
  match body with
  | [part] =>
    match part.toNat with
    | 0 => (p, Reply.okay p.road.notices.partZero)
    | 1 => (p, Reply.okay p.road.notices.partOne)
    | _ => refuse .badVal p
  | _ => refuse .badLen p

/-! ## Requests that also reach the link port: CLN, QST, RST -/

def LinkPort.zeroCounts (l : LinkPort) : LinkPort := { l with framingErrors := 0, checkErrors := 0, overruns := 0 }

/-- R202; a listed LINK_ERROR also zeroes the link error counts (R191). -/
def answerCln (body : List Byte) (s : State) : State × Reply :=
  match readSources body with
  | none => (s, Reply.bare .badLen)
  | some bs =>
    match bs.mapM sourceOf? with
    | none => (s, Reply.bare .badVal)
    | some srcs =>
      ({ s with
          part := s.part.onNotices (NoticeControl.eachOf NoticeSource.cleared srcs),
          link := if srcs.contains srcLinkError then s.link.zeroCounts else s.link },
       Reply.okay [])

/-- R195, log entry 19. -/
def State.statusBytes (s : State) : List Byte :=
  let k := s.part.mode
  [Config.partCode, Config.partRevision, b8 (modeCode k.mode), flagB k.latch, b8 k.slowLimit]
    ++ optB (k.holdCell.map Fin.val)
    ++ [flagB k.driverWake, b8 (resetCauseCode k.cause), b8 (linkRateCode s.link.rate), b8 s.link.framingErrors,
        b8 s.link.checkErrors, b8 s.link.overruns, b8 s.part.drivers.errors]

def answerQst (body : List Byte) (s : State) : State × Reply :=
  match body with
  | [] => (s, Reply.okay s.statusBytes)
  | _ => (s, Reply.bare .badLen)

/-- R186: from now on no request is taken and no frame received. -/
def answerRst (body : List Byte) (s : State) : State × Reply :=
  match body with
  | [] => ({ s with link := { s.link with rstTaken := true } }, Reply.okay [])
  | _ => (s, Reply.bare .badLen)

end Sys2Proof.Machine
end

