-- ==== Sys2Proof/Machine/Slots.lean ====
section
/-! DEFINITION. The frame composer: channel values, dead time, the on-air decision, pending settings, the frame start, and
SSL, SCH, KEY, RLS, QSL and SFP (chapter 7). -/

namespace Sys2Proof.Machine

/-! ## Values before the reverse flags (R130 to R133) -/

/-- A channel value; `composed` ones pass through the reverse flag (R131). -/
structure Value where
  us : Nat
  composed : Bool
deriving DecidableEq, Repr

/-- A THROTTLE value with its class (R133). -/
structure Throttle where
  value : Value
  cls : ThrottleClass
deriving DecidableEq, Repr

/-- Neutral. -/
def Throttle.rest : Throttle := { value := { us := 1500, composed := true }, cls := .stop }

/-- The last mapping of R131. -/
def Value.mapped (reverse : Bool) (v : Value) : Nat := if v.composed && reverse then 3000 - v.us else v.us

def Channel.fixedValue (c : Channel) : Value := { us := c.value, composed := false }

/-- A shaped percentage (R132). -/
def shaped (span percent : Nat) (t : Travel) : Throttle :=
  if percent = 0 then Throttle.rest
  else
    let offset := span * percent / 100
    { value := { us := match t with | .forward => 1500 + offset | .reverse => 1500 - offset, composed := true },
      cls := .drive t }

/-- The brake value (R101, R133). -/
def brakeThrottle (depth : Nat) (direction : Option Travel) : Throttle :=
  let us :=
    match direction with
    | some .forward => 1500 - depth
    | some .reverse => 1500 + depth
    | none => 1500
  { value := { us, composed := true }, cls := .stop }

/-- HOLD_LAST: the value last sent with its class, sent again unchanged (R101, R133). -/
def holdLast (sent : Option Sent) : Throttle :=
  match sent with
  | some s => { value := { us := s.throttle, composed := false }, cls := s.cls }
  | none => Throttle.rest

/-- A halted member's throttle; under RELEASE the slot is off the air and is sent none. -/
def haltThrottle (a : ThrottleAction) (t : Slot) : Throttle :=
  match a with
  | .neutral => Throttle.rest
  | .brake => brakeThrottle t.settings.brake t.direction
  | .holdLast => holdLast t.sent
  | .release => Throttle.rest

def Travel.other : Travel → Travel
  | .forward => .reverse
  | .reverse => .forward

/-- The class of a FIXED value (R133). -/
def fixedClass (reverse : Bool) (us : Nat) : ThrottleClass :=
  if us = 1500 then .stop
  else
    let t : Travel := if 1500 < us then .forward else .reverse
    .drive (if reverse then t.other else t)

/-- The slot's convoy with its answer and the member position, the lead at 0. -/
structure Place where
  convoy : Convoy
  answer : Answer
  position : Nat
deriving DecidableEq, Repr

/-- The steered THROTTLE value (R130). -/
def steeredThrottle (place : Option Place) (t : Slot) : Throttle :=
  match place with
  | none => Throttle.rest
  | some p =>
    match p.answer with
    | .neutral => Throttle.rest
    | .percent each travel => shaped t.settings.span (each.getD p.position 0) travel
    | .halted => haltThrottle p.convoy.halt.throttle t

/-- The THROTTLE value before the dead-time hold; a rundown frame is neutral (R143). -/
def Slot.throttle (place : Option Place) (t : Slot) : Throttle :=
  match t.onAir with
  | .rundown _ => Throttle.rest
  | _ =>
    match t.channels.throttle.mode with
    | .steered => steeredThrottle place t
    | .fixed =>
      { value := t.channels.throttle.fixedValue,
        cls := fixedClass t.settings.reverse.throttle t.channels.throttle.value }

def ConvoyState.locks : ConvoyState → Bool
  | .plain .waiting => true
  | .plain .running => true
  | .halted _ => true
  | _ => false

/-- COUPLER (R130). -/
def Slot.coupler (place : Option Place) (t : Slot) : Value :=
  match t.channels.coupler.mode, place with
  | .steered, some p => if p.convoy.state.locks then { us := 1000, composed := true } else t.channels.coupler.fixedValue
  | _, _ => t.channels.coupler.fixedValue

/-- The lights action of a HALTED convoy (R102, R130). -/
def haltLights (a : LightsAction) (t : Slot) : Value :=
  match a with
  | .hazard => { us := 1500, composed := true }
  | .on => { us := 2000, composed := true }
  | .off => { us := 1000, composed := true }
  | .unchanged =>
    match t.sent with
    | some s => { us := s.lights, composed := false }
    | none => t.channels.lights.fixedValue

/-- LIGHTS (R130). -/
def Slot.lights (place : Option Place) (t : Slot) : Value :=
  match t.channels.lights.mode, place with
  | .steered, some p =>
    match p.convoy.state with
    | .plain .waiting => { us := 2000, composed := true }
    | .plain .running => { us := 2000, composed := true }
    | .halted _ => haltLights p.convoy.halt.lights t
    | _ => t.channels.lights.fixedValue
  | _, _ => t.channels.lights.fixedValue

/-- The slot is member 1 of a convoy whose driver presses HORN. -/
def Place.horn (drivers : DriverPort) (p : Place) : Bool :=
  p.position = 0 && (match p.convoy.source with | .driver d => (Table.at drivers.handsets d).horn | _ => false)

/-- AUX (R130). -/
def Slot.aux (drivers : DriverPort) (place : Option Place) (t : Slot) : Value :=
  match t.channels.aux.mode, place with
  | .steered, some p => if p.horn drivers then { us := 2000, composed := true } else t.channels.aux.fixedValue
  | _, _ => t.channels.aux.fixedValue

/-! ## Dead time (R134) -/

/-- The stop time gathered at this frame start is at least `dead` ms. -/
def Slot.rested (now dead : Nat) (t : Slot) : Bool :=
  match t.neutralSince with
  | some since => dead ≤ now - since
  | none => false

/-- The dead time a drive value of direction `d` must meet. -/
def Slot.deadTime (d : Travel) (t : Slot) : Nat :=
  match t.direction, d with
  | some .forward, .reverse => t.settings.deadFR
  | some .reverse, .forward => t.settings.deadRF
  | none, _ => max t.settings.deadFR t.settings.deadRF
  | _, _ => 0

/-- Neutral-since after a stop value at this frame start. -/
def Slot.stopping (now : Nat) (t : Slot) : Slot := { t with neutralSince := some (t.neutralSince.getD now) }

/-- The hold of R134: the value sent, before reverse, and the slot's dead-time state after it. -/
def Slot.hold (now : Nat) (v : Throttle) (t : Slot) : Throttle × Slot :=
  match v.cls with
  | .stop => (v, t.stopping now)
  | .drive d =>
    if t.direction = some d || t.rested now (t.deadTime d) then
      (v, { t with direction := some d, neutralSince := none })
    else (Throttle.rest, t.stopping now)

/-! ## The on-air decision (R136, R143) -/

/-- A RELEASE halt action applies. -/
def released (place : Option Place) : Bool :=
  match place with
  | some p => p.convoy.state.isHalted && p.convoy.halt.throttle = .release
  | none => false

/-- Keyed, with an address, and not under RELEASE. -/
def Slot.ready (place : Option Place) (t : Slot) : Bool := t.keyed && t.settings.address.isSome && !released place

/-- The on-air state a frame start decides, and whether the slot is listed in its frame. -/
def Slot.decide (hold : Bool) (place : Option Place) (t : Slot) : OnAir × Bool :=
  match t.onAir with
  | .rundown n =>
    if !t.ready place then (.offAir, false)
    else if !hold then (.onAir, true)
    else
      match n with
      | 0 => (.offAir, false)
      | k + 1 => (.rundown k, true)
  | _ => if t.ready place && !hold then (.onAir, true) else (.offAir, false)

/-! ## Pending settings (R139) -/

/-- The pending set applied; the slot unchanged without one. -/
def Slot.applied (t : Slot) : Slot :=
  match t.waiting with
  | some s => { t with settings := s, waiting := none }
  | none => t

/-- A slot that becomes or stays OFF_AIR at a frame start (R135, R139). -/
def Slot.silenced (t : Slot) : Slot := { t with onAir := .offAir, neutralSince := none }.applied

/-! ## One slot of a frame (R141, step 3) -/

/-- A listed slot after its on-air state `air` has been decided: throttle, pending settings, other channels, reverse. -/
def Slot.composed (now : Nat) (drivers : DriverPort) (air : OnAir) (place : Option Place) (t : Slot) : Slot :=
  let t := { t with onAir := air }
  let held := t.hold now (t.throttle place)
  let applies := t.waiting.isSome && held.1.value.us = 1500
  let throttle := if applies then Throttle.rest else held.1
  let t := if applies then held.2.applied else held.2
  let flags := t.settings.reverse
  { t with sent := some {
      throttle := throttle.value.mapped flags.throttle, cls := throttle.cls,
      coupler := (t.coupler place).mapped flags.coupler, lights := (t.lights place).mapped flags.lights,
      aux := (t.aux drivers place).mapped flags.aux } }

/-- One slot at a frame start. -/
def Slot.framed (now : Nat) (hold : Bool) (drivers : DriverPort) (place : Option Place) (t : Slot) : Slot :=
  let d := t.decide hold place
  if d.2 then t.composed now drivers d.1 place else t.silenced

/-- ON_AIR and RUNDOWN slots are the ones a frame start has listed. -/
def Slot.listed (t : Slot) : Bool := t.onAir ≠ .offAir

/-- The nine bytes of a listed slot (R213); `k` numbers the frame start and the slot for the free value. -/
def Slot.airBytes (k : Nat) (t : Slot) : List Byte :=
  let address :=
    match t.settings.address with
    | some a => b8 a
    | none => Config.airAddressOfNone k
  match t.sent with
  | some s => address :: (halfBytes s.throttle ++ halfBytes s.coupler ++ halfBytes s.lights ++ halfBytes s.aux)
  | none => []

/-- The air frame of the slots a frame start at time `now` leaves (R142). -/
def airFrameOf (now : Nat) (slots : Table Slot 24) : List Byte :=
  listB (fun i => (Table.at slots i).airBytes (24 * now + i.val))
    ((List.finRange 24).filter fun i => (Table.at slots i).listed)

/-! ## The frame start (R140, R141) -/

/-- The length of the interval a frame start opens (R140). -/
def Part.framePeriod (p : Part) : Nat := if p.mode.mode = .park then 45 else p.composer.period

/-- The engine's answers, with the convoys after them; a VACANT convoy is not asked. -/
def Part.answers (p : Part) : Table (Convoy × Answer) 8 :=
  Table.mapAll
    (fun _ v => if v.state.formed then v.frame p.mode p.drivers p.framePeriod else (v, .neutral)) p.road.convoys

def placeIn (road : Road) (answers : Table (Convoy × Answer) 8) (i : SlotId) : Option Place :=
  (road.placeOf i).map fun e =>
    { convoy := (Table.at answers e.1).1, answer := (Table.at answers e.1).2, position := e.2 }

def Composer.now (k : Composer) : Nat := k.frameTime + k.interval

/-- The slots after a frame start. -/
def Part.framedSlots (p : Part) : Table Slot 24 :=
  Table.mapAll
    (fun i t => t.framed p.composer.now p.parkHold p.drivers (placeIn p.road p.answers i)) p.composer.slots

/-- The slots whose pending set a frame start has applied. -/
def Part.appliedSlots (p : Part) : List SlotId :=
  (List.finRange 24).filter fun i =>
    (Table.at p.composer.slots i).waiting.isSome && (Table.at p.framedSlots i).waiting.isNone

/-- R141. -/
def frameStart (p : Part) : Part :=
  { p with
      composer := { p.composer with
        slots := p.framedSlots, interval := p.framePeriod, frameTime := p.composer.now,
        airFrame := some (airFrameOf p.composer.now p.framedSlots) },
      road := { p.road with convoys := Table.mapAll (fun _ (a : Convoy × Answer) => a.1) p.answers }.raiseAll srcSlotApplied
        (p.appliedSlots.map Fin.val),
      time := { p.time with frameDue := p.framePeriod } }

/-! ## SSL (R138) -/

def Part.slot (p : Part) (i : SlotId) : Slot := Table.at p.composer.slots i

def Part.setSlot (p : Part) (i : SlotId) (t : Slot) : Part :=
  { p with composer := { p.composer with slots := Table.put p.composer.slots i t } }

def deadTimeOk (n : Nat) : Bool := n ≤ 3000 && n % 100 = 0

def SslReq.valuesOk (q : SslReq) : Bool :=
  q.address.all (fun n => n = 0xFF || (1 ≤ n && n ≤ 60)) && q.span.all (fun n => 100 ≤ n && n ≤ 600)
    && q.brake.all (· ≤ 600) && q.deadFR.all deadTimeOk && q.deadRF.all deadTimeOk && reads flagsOf? q.reverse

/-- Another slot's current or pending address (R128). -/
def Part.addressTaken (p : Part) (i : SlotId) (a : Nat) : Bool :=
  (Table.entries p.composer.slots).any fun e =>
    e.1 ≠ i && (e.2.settings.address = some a || (e.2.waiting.bind SlotSettings.address) = some a)

def SslReq.addressInUse (q : SslReq) (i : SlotId) (p : Part) : Bool :=
  match q.address with
  | some n => n ≠ 0xFF && p.addressTaken i n
  | none => false

/-- The new pending set: present fields from the request, absent ones from the old set or the current settings. -/
def SslReq.settings (q : SslReq) (old : SlotSettings) : SlotSettings :=
  { address := match q.address with | some n => noneOr n | none => old.address,
    span := q.span.getD old.span, brake := q.brake.getD old.brake, deadFR := q.deadFR.getD old.deadFR,
    deadRF := q.deadRF.getD old.deadRF, reverse := newOr flagsOf? q.reverse old.reverse }

def Slot.given (q : SslReq) (t : Slot) : Slot := { t with waiting := some (q.settings (t.waiting.getD t.settings)) }

def ssl (q : SslReq) (p : Part) : Part × Reply :=
  match index? 24 q.slot.toNat with
  | none => refuse .badVal p
  | some i =>
    if !q.valuesOk then refuse .badVal p
    else if q.addressInUse i p then refuse .inUse p
    else
      let t := (p.slot i).given q
      if t.onAir = .offAir then accept ((p.setSlot i t.applied).onRoad (Road.raise srcSlotApplied (subject i.val)))
      else accept (p.setSlot i t)

def answerSsl (body : List Byte) (p : Part) : Part × Reply :=
  match readSsl body with
  | some q => ssl q p
  | none => refuse .badLen p

/-! ## SCH, KEY, RLS, SFP (R129, R137, R140) -/

/-- Channels in the order THROTTLE, COUPLER, LIGHTS, AUX. -/
def Channels.set (k : Nat) (v : Channel) (c : Channels) : Option Channels :=
  match k with
  | 0 => some { c with throttle := v }
  | 1 => some { c with coupler := v }
  | 2 => some { c with lights := v }
  | 3 => some { c with aux := v }
  | _ => none

def sch (slot channel mode : Byte) (value : Nat) (p : Part) : Part × Reply :=
  match index? 24 slot.toNat, channelModeOf? mode.toNat with
  | some i, some m =>
    if value < 800 || 2200 < value then refuse .badVal p
    else
      match (p.slot i).channels.set channel.toNat { mode := m, value } with
      | some c => accept (p.setSlot i { p.slot i with channels := c })
      | none => refuse .badVal p
  | _, _ => refuse .badVal p

def answerSch (body : List Byte) (p : Part) : Part × Reply :=
  match body with
  | [slot, channel, mode, hi, lo] => sch slot channel mode (halfOf hi lo) p
  | _ => refuse .badLen p

/-- KEY with `true`, RLS with `false`. -/
def keying (on : Bool) (slot : Byte) (p : Part) : Part × Reply :=
  match index? 24 slot.toNat with
  | some i => accept (p.setSlot i { p.slot i with keyed := on })
  | none => refuse .badVal p

def answerKey (body : List Byte) (p : Part) : Part × Reply :=
  match body with
  | [slot] => keying true slot p
  | _ => refuse .badLen p

def answerRls (body : List Byte) (p : Part) : Part × Reply :=
  match body with
  | [slot] => keying false slot p
  | _ => refuse .badLen p

def sfp (ms : Nat) (p : Part) : Part × Reply :=
  if [14, 18, 22, 30, 45].contains ms then accept { p with composer := { p.composer with period := ms } }
  else refuse .badVal p

def answerSfp (body : List Byte) (p : Part) : Part × Reply :=
  match body with
  | [ms] => sfp ms.toNat p
  | _ => refuse .badLen p

/-! ## QSL (R144, log entry 20) -/

def SlotSettings.bytes (s : SlotSettings) : List Byte :=
  optB s.address ++ halfBytes s.span ++ halfBytes s.brake ++ halfBytes s.deadFR ++ halfBytes s.deadRF
    ++ [b8 (flagsByte s.reverse)]

/-- The on-air state with the frames remaining; 0xFF stands for no number (log entry 48). -/
def OnAir.bytes : OnAir → List Byte
  | .offAir => [0, 0xFF]
  | .onAir => [1, 0xFF]
  | .rundown n => [2, b8 n]

def Channel.bytes (c : Channel) : List Byte := b8 (channelModeCode c.mode) :: halfBytes c.value

def directionCode : Option Travel → Nat
  | none => 0
  | some .forward => 1
  | some .reverse => 2

/-- The stop time; one that does not fit its two bytes below the none value is free. -/
def stopTimeBytes (o : Option Nat) : List Byte :=
  match o with
  | none => [0xFF, 0xFF]
  | some n => if n < 0xFFFF then halfBytes n else halfBytes (Config.longStopTime n).toNat

/-- Each channel's mode with its fixed value, channel by channel, the model's reading of R144 (log entry 20). -/
def Channels.bytes (c : Channels) : List Byte :=
  c.throttle.bytes ++ c.coupler.bytes ++ c.lights.bytes ++ c.aux.bytes

/-- The four channel values and the off-air mark. -/
def Slot.valueBytes (t : Slot) : List Byte :=
  match t.onAir with
  | .offAir =>
    halfBytes t.channels.throttle.value ++ halfBytes t.channels.coupler.value ++ halfBytes t.channels.lights.value
      ++ halfBytes t.channels.aux.value ++ [1]
  | _ =>
    optH (t.sent.map Sent.throttle) ++ optH (t.sent.map Sent.coupler) ++ optH (t.sent.map Sent.lights)
      ++ optH (t.sent.map Sent.aux) ++ [0]

def Part.slotBytes (p : Part) (i : SlotId) : List Byte :=
  let t := p.slot i
  let place := p.road.placeOf i
  t.settings.bytes ++ ((t.waiting.map SlotSettings.bytes).getD (List.replicate 10 0xFF)) ++ [flagB t.keyed]
    ++ t.onAir.bytes ++ t.channels.bytes ++ [b8 (directionCode t.direction)]
    ++ stopTimeBytes (t.neutralSince.map fun n => p.composer.frameTime - n)
    ++ optB (place.map fun e => e.1.val) ++ optB (place.map fun e => e.2 + 1) ++ t.valueBytes

def qsl (slot : Byte) (p : Part) : Part × Reply :=
  match index? 24 slot.toNat with
  | some i => (p, Reply.okay (p.slotBytes i))
  | none => refuse .badVal p

def answerQsl (body : List Byte) (p : Part) : Part × Reply :=
  match body with
  | [slot] => qsl slot p
  | _ => refuse .badLen p

end Sys2Proof.Machine
end

