-- ==== Sys2Proof/Machine/Link.lean ====
section
/-! DEFINITION. The link port: taking requests and replying, the inbound queue, the receiver and the transmitter's choice
(11.1 to 11.3). -/

namespace Sys2Proof.Machine

/-! ## Handling a request (R192) -/

/-- A request handled by a block of the part. -/
def onPart (f : Part → Part × Reply) (s : State) : State × Reply := ({ s with part := (f s.part).1 }, (f s.part).2)

/-- The block that owns what the request names, or BADKIND (R192, R208). -/
def handle (r : Request) : State → State × Reply :=
  match r.kind.toNat with
  | 0x10 => onPart (answerSdef r.body)
  | 0x11 => onPart (answerSout r.body)
  | 0x12 => onPart (answerSrst r.body)
  | 0x13 => onPart (answerSqry r.body)
  | 0x14 => onPart (answerSmk r.body)
  | 0x15 => onPart (answerQmk r.body)
  | 0x20 => onPart (answerFcv r.body)
  | 0x21 => onPart (answerDcv r.body)
  | 0x22 => onPart (answerLrt r.body)
  | 0x23 => onPart (answerRun r.body)
  | 0x24 => onPart (answerStp r.body)
  | 0x25 => onPart (answerTcv r.body)
  | 0x26 => onPart (answerQcv r.body)
  | 0x28 => onPart (answerSpd r.body)
  | 0x29 => onPart (answerQdr r.body)
  | 0x30 => onPart (answerShl r.body)
  | 0x31 => onPart (answerHlt r.body)
  | 0x32 => onPart (answerRsm r.body)
  | 0x38 => onPart (answerScl r.body)
  | 0x39 => onPart (answerQcl r.body)
  | 0x40 => onPart (answerSsl r.body)
  | 0x41 => onPart (answerSch r.body)
  | 0x42 => onPart (answerKey r.body)
  | 0x43 => onPart (answerRls r.body)
  | 0x44 => onPart (answerQsl r.body)
  | 0x45 => onPart (answerSfp r.body)
  | 0x48 => onPart (answerSln r.body)
  | 0x49 => onPart (answerWln r.body)
  | 0x4A => onPart (answerQln r.body)
  | 0x50 => onPart (answerSck r.body)
  | 0x51 => onPart (answerRck r.body)
  | 0x52 => onPart (answerAdj r.body)
  | 0x53 => onPart (answerQck r.body)
  | 0x54 => onPart (answerSdp r.body)
  | 0x55 => onPart (answerQdp r.body)
  | 0x58 => onPart (answerMod r.body)
  | 0x59 => onPart (answerSmo r.body)
  | 0x5A => onPart (answerPrl r.body)
  | 0x60 => answerQst r.body
  | 0x61 => answerRst r.body
  | 0x62 => onPart (answerEnn r.body)
  | 0x63 => onPart (answerDsn r.body)
  | 0x64 => onPart (answerPrn r.body)
  | 0x65 => answerCln r.body
  | 0x66 => onPart (answerQnt r.body)
  | _ => fun s => (s, Reply.bare .badKind)

def State.onLink (f : LinkPort → LinkPort) (s : State) : State := { s with link := f s.link }

/-- The reply frame waits in the slot (R193). -/
def LinkPort.queueReply (frame : List Byte) (l : LinkPort) : LinkPort := { l with slot := some frame }

/-- A request taken: handled whole, then its reply queued (R192). -/
def take (r : Request) (s : State) : State :=
  (handle r s).1.onLink (LinkPort.queueReply (replyFrame r.kind r.tag (handle r s).2))

/-! ## The transmitter's choice (R194, R199) -/

/-- The line time of a frame, in tenths of a bit time. -/
def lineTime (frame : List Byte) : Nat := frame.length * 100

def LinkPort.send (frame : List Byte) (l : LinkPort) : LinkPort := { l with tx := .sending frame (lineTime frame) }

def LinkPort.sendReply (frame : List Byte) (l : LinkPort) : LinkPort := { l.send frame with slot := none }

/-- The frame of source `i`'s NTC as it would start now. -/
def Part.noticeOf (p : Part) (i : SourceId) : List Byte :=
  noticeFrame p.road.notices.seq i (Table.at p.road.notices.sources i).subjects

def sendNotice (i : SourceId) (s : State) : State :=
  { s with link := s.link.send (s.part.noticeOf i), part := s.part.onNotices (NoticeControl.announce i) }

/-- An IDLE transmitter starts the waiting reply, else the notice R199 chooses; otherwise nothing. -/
def transmit (s : State) : State :=
  match s.link.tx, s.link.slot with
  | .sending _ _, _ => s
  | .idle, some frame => s.onLink (LinkPort.sendReply frame)
  | .idle, none =>
    match s.part.road.notices.next? with
    | some i => sendNotice i s
    | none => s

/-- The link port may take a request (R193). -/
def LinkPort.mayTake (l : LinkPort) : Bool := l.slot.isNone && !l.rstTaken

/-- The transmitter chooses, and waiting requests are taken while the slot is empty. `fuel` is the number of waiting
requests: each round takes one. -/
def serve : Nat → State → State
  | 0, s => transmit s
  | fuel + 1, s =>
    let s := transmit s
    match s.link.mayTake, s.link.inbound with
    | true, r :: rest => serve fuel (take r (s.onLink fun l => { l with inbound := rest }))
    | _, _ => s

/-- The end of an event: the transmitter and the inbound queue are served. -/
def settle (s : State) : State := serve s.link.inbound.length s

/-! ## The inbound queue and the error counts (R190, R191) -/

def State.raise (src : SourceId) (s : State) : State := { s with part := s.part.onRoad (Road.raise src 0) }

def linkError (f : LinkPort → LinkPort) (s : State) : State := (s.onLink f).raise srcLinkError

def LinkPort.overrun (l : LinkPort) : LinkPort := { l with overruns := countUp 255 l.overruns }

/-- A received request offered to the inbound queue (R190); after RST it is discarded uncounted (R186). -/
def offer (r : Request) (s : State) : State :=
  if s.link.rstTaken then s
  else if s.link.slot.isNone && s.link.inbound.isEmpty then take r s
  else if s.link.inbound.length < 4 then s.onLink fun l => { l with inbound := l.inbound ++ [r] }
  else linkError LinkPort.overrun s

/-- A request that arrives at a part that is not held in reset. -/
def receiveRequest (r : Request) (s : State) : State := if s.resets.held then s else settle (offer r s)

/-! ## The receiver (R188, R189) -/

/-- The gap time in ms. -/
def gapTime : Nat := 5

/-- A frame in progress is abandoned: HUNT, counted as a framing error (R188, R191). -/
def LinkPort.abandoned (l : LinkPort) : LinkPort :=
  { l with receiver := .hunt, gap := none, framingErrors := countUp 255 l.framingErrors }

def abandon (s : State) : State := linkError LinkPort.abandoned s

def LinkPort.receiving (v : Receiver) (l : LinkPort) : LinkPort := { l with receiver := v, gap := some gapTime }

/-- A good byte in HUNT. -/
def huntByte (b : Byte) (s : State) : State := if b = 0xA6 then s.onLink (LinkPort.receiving .length) else s

/-- The last byte of a frame has come: the check, and the offer (R189). `bytes` holds kind, tag, body and check. -/
def completeFrame (len : Byte) (bytes : List Byte) (s : State) : State :=
  let s := s.onLink fun l => { l with receiver := .hunt, gap := none }
  let covered := bytes.take len.toNat
  if bytes.drop len.toNat = halfBytes (crc (len :: covered)).toNat then
    match covered with
    | kind :: tag :: body => offer { kind, tag, body } s
    | _ => s
  else linkError (fun l => { l with checkErrors := countUp 255 l.checkErrors }) s

/-- A good byte in LENGTH. -/
def lengthByte (b : Byte) (s : State) : State :=
  if 2 ≤ b.toNat && b.toNat ≤ 62 then s.onLink (LinkPort.receiving (.body b [])) else huntByte b (abandon s)

/-- A good byte in BODY. -/
def bodyByte (len : Byte) (got : List Byte) (b : Byte) (s : State) : State :=
  if (got ++ [b]).length = len.toNat + 2 then completeFrame len (got ++ [b]) s
  else s.onLink (LinkPort.receiving (.body len (got ++ [b])))

/-- A byte from the host (R188); after RST it is ignored (R193). -/
def receiveByte (b : LineByte) (s : State) : State :=
  if s.link.rstTaken then s
  else
    match s.link.receiver, b with
    | .hunt, .good b => huntByte b s
    | .hunt, .bad => s
    | .length, .good b => lengthByte b s
    | .length, .bad => abandon s
    | .body len got, .good b => bodyByte len got b s
    | .body _ _, .bad => abandon s

/-- The gap timer expires in a frame in progress (R188); nothing where a byte has started the timer again, since that byte
belongs to the frame, or where no frame is in progress (log entry 8). -/
def gapExpiry (s : State) : State :=
  if s.link.rstTaken || !timerDue s.link.gap then s
  else
    match s.link.receiver with
    | .hunt => s
    | _ => abandon s

end Sys2Proof.Machine
end

