-- ==== Sys2Proof/Machine/Resets.lean ====
section
/-! DEFINITION. The resets: being held, and the after-reset values of every block (R185, R186 and the reset rules of each
chapter). -/

namespace Sys2Proof.Machine

/-! ## Held in reset (R185) -/

/-- The link port right after a reset (R196), at the given rate. -/
def LinkPort.fresh (rate : LinkRate) : LinkPort :=
  { receiver := .hunt, gap := none, inbound := [], slot := none, tx := .idle, framingErrors := 0, checkErrors := 0,
    overruns := 0, rate, rstTaken := false }

/-- The link's work in flight is discarded; counts and rate stand until the reset is left. -/
def LinkPort.discarded (l : LinkPort) : LinkPort :=
  { l with receiver := .hunt, gap := none, inbound := [], slot := none, tx := .idle, rstTaken := false }

def Section.discarded (v : Section) : Section := { v with queue := [], settle := none }

def Slot.discarded (t : Slot) : Slot :=
  match t.onAir with
  | .rundown _ => { t with onAir := .offAir }
  | _ => t

/-- A held part drives no line: every line is RELEASED and holds no frozen value, as the reset will leave it (R157, R185). -/
def Line.undriven (l : Line) : Line := { l with drive := .released, flash := none, frozen := none }

/-- Settle timers, requests, rundown frames, one-shot times and lost timers are discarded, and no line is driven (R185, log
entry 39). -/
def Part.discarded (p : Part) : Part :=
  { p with
      road := { p.road with
        sections := Table.mapAll (fun _ v => v.discarded) p.road.sections, requests := Table.all none,
        promotions := [], settling := [],
        convoys := Table.mapAll (fun _ (v : Convoy) => { v with asked := none }) p.road.convoys,
        lines := Table.mapAll (fun _ l => l.undriven) p.road.lines },
      drivers := { p.drivers with handsets := Table.all Handset.lost },
      cells := Table.mapAll (fun _ (c : Cell) => { c with remaining := 0 }) p.cells,
      composer := p.composer.mapSlots Slot.discarded }

/-- The part is held in reset from now on. -/
def hold (f : ResetControl → ResetControl) (s : State) : State :=
  { s with resets := { f s.resets with held := true }, link := s.link.discarded, part := s.part.discarded }

/-- POWER_ON: the supply rises to its operating level. -/
def holdPowerOn (s : State) : State := hold (fun k => { k with supplyUp := true, supplyRisen := true }) s

/-- RESET_LINE: the reset input is asserted. -/
def holdResetLine (s : State) : State := hold (fun k => { k with lineAsserted := true }) s

/-- The supply falls below its operating level. -/
def holdSupplyBelow (s : State) : State := hold (fun k => { k with supplyUp := false }) s

/-- A COMMAND reset takes effect (R186). -/
def holdCommand (s : State) : State := hold id s

/-! ## After-reset values -/

/-- What stands on a line's pin. -/
def pinAt (pins : Half) (l : LineId) : PinState := if pins.getLsbD l.val then .high else .low

/-- R6; R4 for the hold-off. -/
def MarkerScanner.fresh (holdOff : Nat) : MarkerScanner :=
  { time := 0, holdOff, markers := Table.all Marker.fresh }

/-- R22, RESET_LINE and COMMAND. -/
def Section.afterReset (v : Section) : Section :=
  { Section.blank with defn := v.defn, status := if v.defn.isSome then .out .reset else .undefined }

/-- The road with no request, no convoy and RESTARTED raised (R49, R74, R204). -/
def Road.fresh (sections : Table Section 64) (lines : Table Line 16) : Road :=
  { sections, requests := Table.all none, arrivals := 0, promotions := [], settling := [],
    convoys := Table.all Convoy.vacant, lines, notices := NoticeControl.restarted }

/-- R157, RESET_LINE and COMMAND. -/
def Line.afterReset (wire : PinState) (l : Line) : Line := { l.undriven with wire }

/-- R127, RESET_LINE and COMMAND. -/
def Cell.afterReset (c : Cell) : Cell := { c.cleared with enabled := false, reload := false, output := false }

/-- R145, RESET_LINE and COMMAND: a pending set becomes current. -/
def Slot.afterReset (t : Slot) : Slot :=
  { t.applied with keyed := false, onAir := .offAir, direction := none, neutralSince := none, sent := none }

/-- The composer at the moment the part leaves a reset: the first frame start comes one period later (R140, R145). -/
def Composer.fresh (slots : Table Slot 24) (period : Nat) : Composer :=
  { slots, period, interval := period, frameTime := 0, airFrame := none }

/-- The mode controller after a reset: HOLD, latch clear (10.1). -/
def ModeControl.afterReset (cause : ResetCause) (k : ModeControl) : ModeControl :=
  { k with mode := .hold, latch := false, cause }

/-- The mode options after POWER_ON. -/
def ModeControl.blank : ModeControl :=
  { mode := .hold, latch := false, slowLimit := 25, holdCell := none, driverWake := false, cause := .powerOn }

def DriverPort.fresh : DriverPort := { handsets := Table.all Handset.lost, errors := 0 }

def ClockPulses.clear : ClockPulses := { minute := false, quarter := false, hour := false }

/-- Every block at its values after POWER_ON. -/
def Part.powerOn (pins : Half) : Part :=
  { markers := MarkerScanner.fresh 100,
    road := Road.fresh (Table.all Section.blank) (Table.mapAll (fun l _ => Line.blank (pinAt pins l)) (Table.all ())),
    drivers := DriverPort.fresh, cells := Table.all Cell.blank, pulses := ClockPulses.clear,
    composer := Composer.fresh (Table.all Slot.blank) 22, clock := LayoutClock.blank,
    departures := Table.all Departure.blank, mode := ModeControl.blank, time := { now := 0, frameDue := 22 } }

/-- Every block at its values after a RESET_LINE or COMMAND reset of the given cause. -/
def Part.warmReset (cause : ResetCause) (pins : Half) (p : Part) : Part :=
  { markers := MarkerScanner.fresh p.markers.holdOff,
    road := Road.fresh (Table.mapAll (fun _ v => v.afterReset) p.road.sections)
      (Table.mapAll (fun i l => l.afterReset (pinAt pins i)) p.road.lines),
    drivers := DriverPort.fresh, cells := Table.mapAll (fun _ c => c.afterReset) p.cells, pulses := ClockPulses.clear,
    composer := Composer.fresh (Table.mapAll (fun _ t => t.afterReset) p.composer.slots) p.composer.period,
    clock := p.clock,
    departures := Table.mapAll (fun _ (e : Departure) => { e with fired := false }) p.departures,
    mode := p.mode.afterReset cause, time := { now := 0, frameDue := p.composer.period } }

/-- The cause recorded on leaving a reset (R185). -/
def ResetControl.cause (k : ResetControl) : ResetCause :=
  if k.supplyRisen then .powerOn else if k.lineAsserted then .resetLine else .command

def Part.afterReset (cause : ResetCause) (pins : Half) (p : Part) : Part :=
  match cause with
  | .powerOn => Part.powerOn pins
  | .resetLine => p.warmReset .resetLine pins
  | .command => p.warmReset .command pins

/-- R187. -/
def rateOf : Strap → LinkRate
  | .low => .baud57600
  | .high => .baud230400

/-- The part leaves the reset: after-reset values, the strap read, RESTARTED raised and its notice started (R185, R204). -/
def leave (strap : Strap) (pins : Half) (s : State) : State :=
  settle
    { s with
        resets := { held := false, supplyUp := true, supplyRisen := false, lineAsserted := false },
        link := LinkPort.fresh (rateOf strap),
        part := s.part.afterReset s.resets.cause pins }

/-- LEAVE_RESET comes when the part is held and the supply is up; otherwise it has no effect (log entry 7). -/
def leaveReset (strap : Strap) (pins : Half) (s : State) : State :=
  if s.resets.held && s.resets.supplyUp then leave strap pins s else s

/-- The last byte of a message has left the line: the COMMAND reset after RST's reply, or the next choice (R186, R194). -/
def messageSent (s : State) : State :=
  match s.link.tx with
  | .idle => s
  | .sending _ _ =>
    if s.link.rstTaken && s.link.slot.isNone then holdCommand s else settle (s.onLink fun l => { l with tx := .idle })

end Sys2Proof.Machine
end

