-- ==== Sys2Proof/Machine/Clockwork.lean ====
section
/-! DEFINITION. One millisecond of real time on an empty queue: the timers run down and the events that fall due join the
queue (log entries 1, 2 and 38). -/

namespace Sys2Proof.Machine

/-! ## Timers -/

/-- One millisecond off a running timer. -/
def timerDown (t : Option Nat) : Option Nat := t.map fun n => n - 1

def Section.aged (v : Section) : Section := { v with settle := timerDown v.settle }

def Handset.aged (h : Handset) : Handset :=
  match h.presence with
  | .present left => { h with presence := .present (left - 1) }
  | .lost => h

def Line.aged (l : Line) : Line :=
  match l.flash with
  | some f => { l with flash := some { f with left := f.left - 1 } }
  | none => l

/-- The tenths of a bit time that pass in a millisecond. -/
def tenthsPerMs : LinkRate → Nat
  | .baud57600 => 576
  | .baud230400 => 2304

def LinkPort.aged (l : LinkPort) : LinkPort :=
  { l with
      gap := timerDown l.gap,
      tx := match l.tx with
        | .sending frame left => .sending frame (left - tenthsPerMs l.rate)
        | .idle => .idle }

/-- The clock after a millisecond: one that would make a scale second pass is left to SCALE_SECOND (R158, log entry 10). -/
def LayoutClock.aged (k : LayoutClock) : LayoutClock :=
  if k.running && k.fraction + k.ratio < 1000 then { k with fraction := k.fraction + k.ratio } else k

/-- The part with every timer one millisecond on. -/
def Part.aged (p : Part) : Part :=
  { p with
      road := { p.road with
        sections := Table.mapAll (fun _ v => v.aged) p.road.sections,
        lines := Table.mapAll (fun _ l => l.aged) p.road.lines },
      drivers := { p.drivers with handsets := Table.mapAll (fun _ h => h.aged) p.drivers.handsets },
      clock := p.clock.aged,
      time := { now := p.time.now + 1, frameDue := p.time.frameDue - 1 } }

/-! ## Due events -/

def dueIf (b : Bool) (c : Instr) : List Instr := if b then [c] else []

/-- A tick of the marker time is due (R2). -/
def TimeBase.markerTick (t : TimeBase) : Bool := t.now % 10 = 0

/-- The marker's hold-off wait has run out, the due tick counted, and it has not yet been shown ARMED. -/
def MarkerScanner.waitOver (k : MarkerScanner) (tick : Bool) (m : Marker) : Bool :=
  m.state = .settling && m.waited k.units (if tick then k.time + 1 else k.time)

def Line.due (l : Line) : Bool :=
  match l.flash with
  | some f => f.left = 0
  | none => false

def LinkPort.messageDue (l : LinkPort) : Bool :=
  match l.tx with
  | .sending _ left => left = 0
  | .idle => false

/-- The events due at the end of a millisecond that `before` saw begin and `after` saw end, in a fixed order (log entry 2). -/
def dueEvents (before after : State) : List Instr :=
  let p := after.part
  dueIf p.time.markerTick .markerTimeTick
    ++ ((Table.numbers p.markers.markers (p.markers.waitOver p.time.markerTick)).map .holdOffExpiry)
    ++ ((Table.numbers p.road.sections fun v => timerDue v.settle).map .settleTimerExpiry)
    ++ ((Table.numbers p.drivers.handsets Handset.due).map .lostTimerExpiry)
    ++ dueIf before.part.clock.secondDue .scaleSecond
    ++ ((Table.numbers p.road.lines Line.due).map .flashToggle)
    ++ dueIf (p.time.now % 5 = 0) .cellScan
    ++ dueIf (p.time.frameDue = 0) .frameStart
    ++ dueIf (timerDue after.link.gap && !after.link.rstTaken) .gapTimerExpiry
    ++ dueIf after.link.messageDue .messageSent

/-- A millisecond passes; nothing runs while the part is held in reset (R185). -/
def millisecond (s : State) : State :=
  if s.resets.held then s
  else
    let t := { s with link := s.link.aged, part := s.part.aged }
    { t with pending := s.pending ++ dueEvents s t }

end Sys2Proof.Machine
end

