-- ==== Sys2Proof/Machine/Requests.lean ====
section
/-! DEFINITION. The meaning of each request command: the request, whole and with its check agreed, is offered to the link
port (R189, R190, log entry 3). What the owning block does with it stands in that block's file, under the rule named. -/

namespace Sys2Proof.Machine

/-- The outcome of a command. -/
abbrev Out := Host.Outcome State Fault Refusal

/-- A request of the given kind arrives. -/
def request (kind tag : Byte) (body : List Byte) (s : State) : Out := .next (receiveRequest { kind, tag, body } s)

/-- SDEF (R9). -/
def execSdef (tag : Byte) (body : List Byte) (s : State) : Out := request 0x10 tag body s

/-- SOUT (R11, R12). -/
def execSout (tag : Byte) (body : List Byte) (s : State) : Out := request 0x11 tag body s

/-- SRST (R13, R14). -/
def execSrst (tag : Byte) (body : List Byte) (s : State) : Out := request 0x12 tag body s

/-- SQRY (R15). -/
def execSqry (tag : Byte) (body : List Byte) (s : State) : Out := request 0x13 tag body s

/-- SMK (R4). -/
def execSmk (tag : Byte) (body : List Byte) (s : State) : Out := request 0x14 tag body s

/-- QMK (R5). -/
def execQmk (tag : Byte) (body : List Byte) (s : State) : Out := request 0x15 tag body s

/-- FCV (R53, R54). -/
def execFcv (tag : Byte) (body : List Byte) (s : State) : Out := request 0x20 tag body s

/-- DCV (R55). -/
def execDcv (tag : Byte) (body : List Byte) (s : State) : Out := request 0x21 tag body s

/-- LRT (R56 to R58). -/
def execLrt (tag : Byte) (body : List Byte) (s : State) : Out := request 0x22 tag body s

/-- RUN (R59). -/
def execRun (tag : Byte) (body : List Byte) (s : State) : Out := request 0x23 tag body s

/-- STP (R60). -/
def execStp (tag : Byte) (body : List Byte) (s : State) : Out := request 0x24 tag body s

/-- TCV (R61). -/
def execTcv (tag : Byte) (body : List Byte) (s : State) : Out := request 0x25 tag body s

/-- QCV (R72). -/
def execQcv (tag : Byte) (body : List Byte) (s : State) : Out := request 0x26 tag body s

/-- SPD (R76). -/
def execSpd (tag : Byte) (body : List Byte) (s : State) : Out := request 0x28 tag body s

/-- QDR (R82). -/
def execQdr (tag : Byte) (body : List Byte) (s : State) : Out := request 0x29 tag body s

/-- SHL (R99). -/
def execShl (tag : Byte) (body : List Byte) (s : State) : Out := request 0x30 tag body s

/-- HLT (R100). -/
def execHlt (tag : Byte) (body : List Byte) (s : State) : Out := request 0x31 tag body s

/-- RSM (R104). -/
def execRsm (tag : Byte) (body : List Byte) (s : State) : Out := request 0x32 tag body s

/-- SCL (R125). -/
def execScl (tag : Byte) (body : List Byte) (s : State) : Out := request 0x38 tag body s

/-- QCL (R126). -/
def execQcl (tag : Byte) (body : List Byte) (s : State) : Out := request 0x39 tag body s

/-- SSL (R138). -/
def execSsl (tag : Byte) (body : List Byte) (s : State) : Out := request 0x40 tag body s

/-- SCH (R129). -/
def execSch (tag : Byte) (body : List Byte) (s : State) : Out := request 0x41 tag body s

/-- KEY (R137). -/
def execKey (tag : Byte) (body : List Byte) (s : State) : Out := request 0x42 tag body s

/-- RLS (R137). -/
def execRls (tag : Byte) (body : List Byte) (s : State) : Out := request 0x43 tag body s

/-- QSL (R144). -/
def execQsl (tag : Byte) (body : List Byte) (s : State) : Out := request 0x44 tag body s

/-- SFP (R140). -/
def execSfp (tag : Byte) (body : List Byte) (s : State) : Out := request 0x45 tag body s

/-- SLN (R152). -/
def execSln (tag : Byte) (body : List Byte) (s : State) : Out := request 0x48 tag body s

/-- WLN (R153). -/
def execWln (tag : Byte) (body : List Byte) (s : State) : Out := request 0x49 tag body s

/-- QLN (R154). -/
def execQln (tag : Byte) (body : List Byte) (s : State) : Out := request 0x4A tag body s

/-- SCK (R161). -/
def execSck (tag : Byte) (body : List Byte) (s : State) : Out := request 0x50 tag body s

/-- RCK (R163). -/
def execRck (tag : Byte) (body : List Byte) (s : State) : Out := request 0x51 tag body s

/-- ADJ (R162). -/
def execAdj (tag : Byte) (body : List Byte) (s : State) : Out := request 0x52 tag body s

/-- QCK (R165). -/
def execQck (tag : Byte) (body : List Byte) (s : State) : Out := request 0x53 tag body s

/-- SDP (R172). -/
def execSdp (tag : Byte) (body : List Byte) (s : State) : Out := request 0x54 tag body s

/-- QDP (R173). -/
def execQdp (tag : Byte) (body : List Byte) (s : State) : Out := request 0x55 tag body s

/-- MOD (R176). -/
def execMod (tag : Byte) (body : List Byte) (s : State) : Out := request 0x58 tag body s

/-- SMO (R183). -/
def execSmo (tag : Byte) (body : List Byte) (s : State) : Out := request 0x59 tag body s

/-- PRL (R182). -/
def execPrl (tag : Byte) (body : List Byte) (s : State) : Out := request 0x5A tag body s

/-- QST (R195). -/
def execQst (tag : Byte) (body : List Byte) (s : State) : Out := request 0x60 tag body s

/-- RST (R186). -/
def execRst (tag : Byte) (body : List Byte) (s : State) : Out := request 0x61 tag body s

/-- ENN (R200). -/
def execEnn (tag : Byte) (body : List Byte) (s : State) : Out := request 0x62 tag body s

/-- DSN (R200). -/
def execDsn (tag : Byte) (body : List Byte) (s : State) : Out := request 0x63 tag body s

/-- PRN (R201). -/
def execPrn (tag : Byte) (body : List Byte) (s : State) : Out := request 0x64 tag body s

/-- CLN (R202). -/
def execCln (tag : Byte) (body : List Byte) (s : State) : Out := request 0x65 tag body s

/-- QNT (R203). -/
def execQnt (tag : Byte) (body : List Byte) (s : State) : Out := request 0x66 tag body s

/-- A request whose kind names no request; it is answered BADKIND (R192, R208). -/
def execUnknownKind (kind tag : Byte) (body : List Byte) (s : State) : Out := request kind tag body s

end Sys2Proof.Machine
end

