-- ==== Sys2Proof/Machine/Events.lean ====
section
/-! DEFINITION. The meaning of each event command. While the part is held in reset only the resets themselves and the wires
of the accessory lines act (R185, log entry 6). -/

namespace Sys2Proof.Machine

/-- An event of the running part. -/
def running (f : State → State) (s : State) : Out := .next (if s.resets.held then s else f s)

def State.onPart (f : Part → Part) (s : State) : State := { s with part := f s.part }

/-- An event at a block that raises no notice. -/
def quietEvent (f : Part → Part) (s : State) : Out := running (State.onPart f) s

/-- An event at a block; a notice it raises starts at its end if the transmitter is IDLE (R194, log entry 4). -/
def partEvent (f : Part → Part) (s : State) : Out := running (fun s => settle (s.onPart f)) s

/-- An event at the link port. -/
def linkEvent (f : State → State) (s : State) : Out := running (fun s => settle (f s)) s

/-- BOARD_REPORT (R1). -/
def execBoardReport (board levels : Byte) (s : State) : Out := partEvent (boardReport board levels) s

/-- HOLD_OFF_EXPIRY (R3). -/
def execHoldOffExpiry (marker : MarkerId) (s : State) : Out := quietEvent (holdOffExpiry marker) s

/-- MARKER_TIME_TICK (R2). -/
def execMarkerTimeTick (s : State) : Out := quietEvent (markerTimeTick) s

/-- SETTLE_TIMER_EXPIRY (R39). -/
def execSettleTimerExpiry (sec : SectionId) (s : State) : Out := partEvent (settleTimerExpiry sec) s

/-- HANDSET_UPDATE (R78, R79). -/
def execHandsetUpdate (driver throttle buttons : Byte) (s : State) : Out := partEvent (handsetUpdate driver throttle buttons) s

/-- LOST_TIMER_EXPIRY (R80). -/
def execLostTimerExpiry (driver : DriverId) (s : State) : Out := partEvent (lostTimerExpiry driver) s

/-- CELL_SCAN (R122). -/
def execCellScan (s : State) : Out := partEvent (cellScan) s

/-- ONE_SHOT_EXPIRY (R121). -/
def execOneShotExpiry (cell : CellId) (s : State) : Out := quietEvent (oneShotExpiry cell) s

/-- FRAME_START (R141). -/
def execFrameStart (s : State) : Out := partEvent (frameStart) s

/-- LINE_PIN_CHANGE (R147). What stands on the wire is followed while the part is held, and nothing else (log entry 12). -/
def execLinePinChange (line : LineId) (pin : PinState) (s : State) : Out :=
  if s.resets.held then .next (s.onPart fun p => p.setLine line { p.line line with wire := pin })
  else partEvent (linePinChange line pin) s

/-- FLASH_TOGGLE (R151). -/
def execFlashToggle (line : LineId) (s : State) : Out := quietEvent (flashToggle line) s

/-- SCALE_SECOND (R158). -/
def execScaleSecond (s : State) : Out := partEvent (scaleSecond) s

/-- BYTE_RECEIVED (R188). -/
def execByteReceived (b : LineByte) (s : State) : Out := linkEvent (receiveByte b) s

/-- GAP_TIMER_EXPIRY (R188). -/
def execGapTimerExpiry (s : State) : Out := linkEvent gapExpiry s

/-- MESSAGE_SENT (R194, R186). -/
def execMessageSent (s : State) : Out := running messageSent s

/-- POWER_ON (R185). -/
def execPowerOn (s : State) : Out := .next (holdPowerOn s)

/-- RESET_LINE (R185). -/
def execResetLine (s : State) : Out := .next (holdResetLine s)

/-- LEAVE_RESET (R185). -/
def execLeaveReset (strap : Strap) (pins : Half) (s : State) : Out := .next (leaveReset strap pins s)

/-- SUPPLY_BELOW_OPERATING_LEVEL (R185). -/
def execSupplyBelowOperatingLevel (s : State) : Out := .next (holdSupplyBelow s)

end Sys2Proof.Machine
end

