-- ==== Sys2Proof/Machine/Dispatch.lean ====
section
/-! DEFINITION. The meaning of a command, one arm per constructor of Instr. -/

namespace Sys2Proof.Machine

def exec (i : Instr) (s : State) : Host.Outcome State Fault Refusal :=
  match i with
  | .sdef tag body => Sys2Proof.Machine.execSdef tag body s
  | .sout tag body => Sys2Proof.Machine.execSout tag body s
  | .srst tag body => Sys2Proof.Machine.execSrst tag body s
  | .sqry tag body => Sys2Proof.Machine.execSqry tag body s
  | .smk tag body => Sys2Proof.Machine.execSmk tag body s
  | .qmk tag body => Sys2Proof.Machine.execQmk tag body s
  | .fcv tag body => Sys2Proof.Machine.execFcv tag body s
  | .dcv tag body => Sys2Proof.Machine.execDcv tag body s
  | .lrt tag body => Sys2Proof.Machine.execLrt tag body s
  | .run tag body => Sys2Proof.Machine.execRun tag body s
  | .stp tag body => Sys2Proof.Machine.execStp tag body s
  | .tcv tag body => Sys2Proof.Machine.execTcv tag body s
  | .qcv tag body => Sys2Proof.Machine.execQcv tag body s
  | .spd tag body => Sys2Proof.Machine.execSpd tag body s
  | .qdr tag body => Sys2Proof.Machine.execQdr tag body s
  | .shl tag body => Sys2Proof.Machine.execShl tag body s
  | .hlt tag body => Sys2Proof.Machine.execHlt tag body s
  | .rsm tag body => Sys2Proof.Machine.execRsm tag body s
  | .scl tag body => Sys2Proof.Machine.execScl tag body s
  | .qcl tag body => Sys2Proof.Machine.execQcl tag body s
  | .ssl tag body => Sys2Proof.Machine.execSsl tag body s
  | .sch tag body => Sys2Proof.Machine.execSch tag body s
  | .key tag body => Sys2Proof.Machine.execKey tag body s
  | .rls tag body => Sys2Proof.Machine.execRls tag body s
  | .qsl tag body => Sys2Proof.Machine.execQsl tag body s
  | .sfp tag body => Sys2Proof.Machine.execSfp tag body s
  | .sln tag body => Sys2Proof.Machine.execSln tag body s
  | .wln tag body => Sys2Proof.Machine.execWln tag body s
  | .qln tag body => Sys2Proof.Machine.execQln tag body s
  | .sck tag body => Sys2Proof.Machine.execSck tag body s
  | .rck tag body => Sys2Proof.Machine.execRck tag body s
  | .adj tag body => Sys2Proof.Machine.execAdj tag body s
  | .qck tag body => Sys2Proof.Machine.execQck tag body s
  | .sdp tag body => Sys2Proof.Machine.execSdp tag body s
  | .qdp tag body => Sys2Proof.Machine.execQdp tag body s
  | .mod tag body => Sys2Proof.Machine.execMod tag body s
  | .smo tag body => Sys2Proof.Machine.execSmo tag body s
  | .prl tag body => Sys2Proof.Machine.execPrl tag body s
  | .qst tag body => Sys2Proof.Machine.execQst tag body s
  | .rst tag body => Sys2Proof.Machine.execRst tag body s
  | .enn tag body => Sys2Proof.Machine.execEnn tag body s
  | .dsn tag body => Sys2Proof.Machine.execDsn tag body s
  | .prn tag body => Sys2Proof.Machine.execPrn tag body s
  | .cln tag body => Sys2Proof.Machine.execCln tag body s
  | .qnt tag body => Sys2Proof.Machine.execQnt tag body s
  | .unknownKind kind tag body => Sys2Proof.Machine.execUnknownKind kind tag body s
  | .boardReport board levels => Sys2Proof.Machine.execBoardReport board levels s
  | .holdOffExpiry marker => Sys2Proof.Machine.execHoldOffExpiry marker s
  | .markerTimeTick => Sys2Proof.Machine.execMarkerTimeTick s
  | .settleTimerExpiry sec => Sys2Proof.Machine.execSettleTimerExpiry sec s
  | .handsetUpdate driver throttle buttons => Sys2Proof.Machine.execHandsetUpdate driver throttle buttons s
  | .lostTimerExpiry driver => Sys2Proof.Machine.execLostTimerExpiry driver s
  | .cellScan => Sys2Proof.Machine.execCellScan s
  | .oneShotExpiry cell => Sys2Proof.Machine.execOneShotExpiry cell s
  | .frameStart => Sys2Proof.Machine.execFrameStart s
  | .linePinChange line pin => Sys2Proof.Machine.execLinePinChange line pin s
  | .flashToggle line => Sys2Proof.Machine.execFlashToggle line s
  | .scaleSecond => Sys2Proof.Machine.execScaleSecond s
  | .byteReceived b => Sys2Proof.Machine.execByteReceived b s
  | .gapTimerExpiry => Sys2Proof.Machine.execGapTimerExpiry s
  | .messageSent => Sys2Proof.Machine.execMessageSent s
  | .powerOn => Sys2Proof.Machine.execPowerOn s
  | .resetLine => Sys2Proof.Machine.execResetLine s
  | .leaveReset strap pins => Sys2Proof.Machine.execLeaveReset strap pins s
  | .supplyBelowOperatingLevel => Sys2Proof.Machine.execSupplyBelowOperatingLevel s

end Sys2Proof.Machine
end

