-- ==== Sys2Proof/WellFormed.lean ====
section
/-! DEFINITION. Which commands a sender can form: a request's body fits a frame (R206), and a kind that is called
unknown names no request (R208). Every other operand is in range by its type. -/

namespace Sys2Proof

/-- The kind codes of the requests (R208). -/
def requestKinds : List Byte :=
  [0x10, 0x11, 0x12, 0x13, 0x14, 0x15,
   0x20, 0x21, 0x22, 0x23, 0x24, 0x25, 0x26, 0x28, 0x29,
   0x30, 0x31, 0x32, 0x38, 0x39,
   0x40, 0x41, 0x42, 0x43, 0x44, 0x45, 0x48, 0x49, 0x4A,
   0x50, 0x51, 0x52, 0x53, 0x54, 0x55, 0x58, 0x59, 0x5A,
   0x60, 0x61, 0x62, 0x63, 0x64, 0x65, 0x66]

/-- The kind and the body of a request command; none for an event. -/
def Instr.request? : Instr → Option (Byte × List Byte)
  | .sdef _ b => some (0x10, b) | .sout _ b => some (0x11, b) | .srst _ b => some (0x12, b)
  | .sqry _ b => some (0x13, b) | .smk _ b => some (0x14, b) | .qmk _ b => some (0x15, b)
  | .fcv _ b => some (0x20, b) | .dcv _ b => some (0x21, b) | .lrt _ b => some (0x22, b)
  | .run _ b => some (0x23, b) | .stp _ b => some (0x24, b) | .tcv _ b => some (0x25, b)
  | .qcv _ b => some (0x26, b) | .spd _ b => some (0x28, b) | .qdr _ b => some (0x29, b)
  | .shl _ b => some (0x30, b) | .hlt _ b => some (0x31, b) | .rsm _ b => some (0x32, b)
  | .scl _ b => some (0x38, b) | .qcl _ b => some (0x39, b)
  | .ssl _ b => some (0x40, b) | .sch _ b => some (0x41, b) | .key _ b => some (0x42, b)
  | .rls _ b => some (0x43, b) | .qsl _ b => some (0x44, b) | .sfp _ b => some (0x45, b)
  | .sln _ b => some (0x48, b) | .wln _ b => some (0x49, b) | .qln _ b => some (0x4A, b)
  | .sck _ b => some (0x50, b) | .rck _ b => some (0x51, b) | .adj _ b => some (0x52, b)
  | .qck _ b => some (0x53, b) | .sdp _ b => some (0x54, b) | .qdp _ b => some (0x55, b)
  | .mod _ b => some (0x58, b) | .smo _ b => some (0x59, b) | .prl _ b => some (0x5A, b)
  | .qst _ b => some (0x60, b) | .rst _ b => some (0x61, b) | .enn _ b => some (0x62, b)
  | .dsn _ b => some (0x63, b) | .prn _ b => some (0x64, b) | .cln _ b => some (0x65, b)
  | .qnt _ b => some (0x66, b) | .unknownKind k _ b => some (k, b)
  | .boardReport .. | .holdOffExpiry .. | .markerTimeTick | .settleTimerExpiry .. | .handsetUpdate ..
  | .lostTimerExpiry .. | .cellScan | .oneShotExpiry .. | .frameStart | .linePinChange .. | .flashToggle ..
  | .scaleSecond | .byteReceived .. | .gapTimerExpiry | .messageSent | .powerOn | .resetLine | .leaveReset ..
  | .supplyBelowOperatingLevel => none

/-- A frame's body has at most 60 bytes (R206). -/
def Instr.bodyFits (i : Instr) : Bool :=
  match i.request? with
  | some (_, b) => b.length ≤ 60
  | none => true

/-- An unknown kind is none of the kinds of R208. -/
def Instr.kindRight : Instr → Bool
  | .unknownKind k _ _ => !requestKinds.contains k
  | _ => true

def Instr.wellFormed (i : Instr) : Bool := i.bodyFits && i.kindRight

end Sys2Proof
end

