-- ==== Sys2Proof/Safety.lean ====
section
/-! DEFINITION. The words the statements use: when a request is taken and answered at once, when the link is served, what a
road event leaves as it was, and the laws the part keeps. -/

namespace Sys2Proof.Machine

/-! ## The link port -/

/-- The part runs, nothing waits and the transmitter is IDLE: a request is taken and answered at once (R193, R194). -/
def Ready (s : State) : Prop :=
  s.resets.held = false ∧ s.link.tx = .idle ∧ s.link.slot = none ∧ s.link.inbound = [] ∧ s.link.rstTaken = false

/-- The state after a request of a ready part: the block's new state `p`, and the reply on the line. -/
def State.replied (kind tag : Byte) (r : Reply) (p : Part) (s : State) : State :=
  { s with part := p,
           link := { s.link with
             tx := .sending (replyFrame kind tag r) ((replyFrame kind tag r).length * 100) } }

/-- A plain OK with no body of its own. -/
def okReply : Reply := { status := .ok, body := [] }

/-- The link port has done what it can: no request waits that could be taken, and an IDLE transmitter has no reply to send
(R193, R194). -/
def Served (s : State) : Prop :=
  (s.link.inbound = [] ∨ s.link.slot.isSome = true ∨ s.link.rstTaken = true)
    ∧ (s.link.tx = .idle → s.link.slot = none ∧ s.link.inbound = [])

/-- The part runs and the link is served: an event is followed by at most the start of one notice. -/
def Quiet (s : State) : Prop := s.resets.held = false ∧ Served s

/-- The request a request command carries. -/
def asRequest? : Instr → Option Request
  | .sdef t b => some ⟨0x10, t, b⟩ | .sout t b => some ⟨0x11, t, b⟩ | .srst t b => some ⟨0x12, t, b⟩
  | .sqry t b => some ⟨0x13, t, b⟩ | .smk t b => some ⟨0x14, t, b⟩ | .qmk t b => some ⟨0x15, t, b⟩
  | .fcv t b => some ⟨0x20, t, b⟩ | .dcv t b => some ⟨0x21, t, b⟩ | .lrt t b => some ⟨0x22, t, b⟩
  | .run t b => some ⟨0x23, t, b⟩ | .stp t b => some ⟨0x24, t, b⟩ | .tcv t b => some ⟨0x25, t, b⟩
  | .qcv t b => some ⟨0x26, t, b⟩ | .spd t b => some ⟨0x28, t, b⟩ | .qdr t b => some ⟨0x29, t, b⟩
  | .shl t b => some ⟨0x30, t, b⟩ | .hlt t b => some ⟨0x31, t, b⟩ | .rsm t b => some ⟨0x32, t, b⟩
  | .scl t b => some ⟨0x38, t, b⟩ | .qcl t b => some ⟨0x39, t, b⟩
  | .ssl t b => some ⟨0x40, t, b⟩ | .sch t b => some ⟨0x41, t, b⟩ | .key t b => some ⟨0x42, t, b⟩
  | .rls t b => some ⟨0x43, t, b⟩ | .qsl t b => some ⟨0x44, t, b⟩ | .sfp t b => some ⟨0x45, t, b⟩
  | .sln t b => some ⟨0x48, t, b⟩ | .wln t b => some ⟨0x49, t, b⟩ | .qln t b => some ⟨0x4A, t, b⟩
  | .sck t b => some ⟨0x50, t, b⟩ | .rck t b => some ⟨0x51, t, b⟩ | .adj t b => some ⟨0x52, t, b⟩
  | .qck t b => some ⟨0x53, t, b⟩ | .sdp t b => some ⟨0x54, t, b⟩ | .qdp t b => some ⟨0x55, t, b⟩
  | .mod t b => some ⟨0x58, t, b⟩ | .smo t b => some ⟨0x59, t, b⟩ | .prl t b => some ⟨0x5A, t, b⟩
  | .qst t b => some ⟨0x60, t, b⟩ | .rst t b => some ⟨0x61, t, b⟩ | .enn t b => some ⟨0x62, t, b⟩
  | .dsn t b => some ⟨0x63, t, b⟩ | .prn t b => some ⟨0x64, t, b⟩ | .cln t b => some ⟨0x65, t, b⟩
  | .qnt t b => some ⟨0x66, t, b⟩ | .unknownKind k t b => some ⟨k, t, b⟩
  | _ => none

/-- Commands run one after another, each as exec gives it; the state stands where one does not answer a next state. -/
def runAll : List Instr → State → State
  | [], s => s
  | c :: cs, s =>
    match exec c s with
    | .next t => runAll cs t
    | .fault _ => s
    | .refused _ => s

/-- The bytes of a frame as they come in. -/
def arriving (bytes : List Byte) : List Instr := bytes.map fun b => .byteReceived (.good b)

/-! ## Requests spelled from their fields -/

/-- The body of SDEF for section `i` (R9, R210); `patience` is the byte that stands for the patience. -/
def sdefBody (i : SectionId) (d : SectionDef) (patience : Byte) : List Byte :=
  [b8 i.val, b8 (sectionKindCode d.kind), b8 d.endA.val] ++ optB (d.endB.map Fin.val) ++ optB (d.allowed.map dirCode)
    ++ optB (d.junction.map fun j => j.line.val) ++ optH (d.junction.map Junction.settle) ++ [patience]

/-- The fields of a definition that the third check of R9 accepts. -/
def SectionDef.sound (d : SectionDef) : Prop :=
  (d.kind = .dock ↔ d.endB = none) ∧ d.endB ≠ some d.endA ∧ (d.kind = .oneWay ↔ d.allowed.isSome = true)
    ∧ 1 ≤ d.patience ∧ d.patience ≤ 7 ∧ ∀ j, d.junction = some j → j.settle ≤ 2000 ∧ j.settle % 100 = 0

/-- The body of FCV (R211). -/
def fcvBody (f : Formation) : List Byte :=
  [b8 f.convoy.val, b8 f.members.length, b8 f.home.val, b8 (dirCode f.dir), b8 (travelCode f.travel)]
    ++ demandSourceBytes f.source ++ f.members.flatMap fun m => [b8 m.slot.val, b8 m.trailers]

/-- The body of LRT (R211). -/
def lrtBody (c : ConvoyId) (steps : List RouteStep) : List Byte :=
  [b8 c.val, b8 steps.length] ++ steps.flatMap fun t => [b8 t.sec.val, t.flags]

/-- A body with a presence mask of one byte (R210). -/
def maskedBody (sizes : List Nat) (fs : List (Option Nat)) : List Byte := b8 (maskOf fs) :: writeFields sizes fs

/-- A body with a presence mask of two bytes (R210, R211). -/
def wideMaskedBody (sizes : List Nat) (fs : List (Option Nat)) : List Byte := halfBytes (maskOf fs) ++ writeFields sizes fs

def tcvBody (q : TcvReq) : List Byte :=
  q.convoy :: maskedBody tcvSizes [q.priority, q.lag, q.gapMin, q.gapMax, q.trimStep, q.source, q.cruise, q.ramp]

def sclBody (q : SclReq) : List Byte :=
  q.cell :: wideMaskedBody sclSizes
    ([q.enable] ++ q.selectors ++ q.gates ++ [q.fn, q.invert, q.shotTime, q.rise, q.fall])

def sslBody (q : SslReq) : List Byte :=
  q.slot :: maskedBody sslSizes [q.address, q.span, q.brake, q.deadFR, q.deadRF, q.reverse]

def slnBody (q : SlnReq) : List Byte :=
  q.line :: maskedBody slnSizes [q.direction, q.drive, q.function, q.invert, q.wake, q.period, q.gate]

def sdpBody (q : SdpReq) : List Byte :=
  q.entry :: wideMaskedBody sdpSizes
    [q.enable, q.day, q.hour, q.minute, q.action, q.convoy, q.cruise, q.ramp, if q.resetMissed then some 0 else none]

def smoBody (q : SmoReq) : List Byte := maskedBody smoSizes [q.slowLimit, q.holdCell, q.driverWake]

/-- How many bytes the fields of the given sizes take that a presence mask marks present (R210). -/
def maskLength : List Nat → Nat → Nat
  | [], _ => 0
  | sz :: szs, mask => (if mask % 2 = 1 then sz else 0) + maskLength szs (mask / 2)

/-- The present fields fit their sizes, and there is a field for each size. -/
def FieldsFit : List Nat → List (Option Nat) → Prop
  | [], [] => True
  | sz :: szs, f :: fs =>
    (∀ n, f = some n → (sz = 0 ∧ n = 0) ∨ (sz = 1 ∧ n < 256) ∨ (sz = 2 ∧ n < 65536)) ∧ FieldsFit szs fs
  | _, _ => False

/-! ## Routes and minute changes -/

/-- The branch that section definition `d` has on the road now. -/
def Road.branchNow (r : Road) (d : SectionDef) : Branch :=
  match d.junction with
  | some j => if (r.line j.line).junction then .turn else .straight
  | none => .plain

/-- The nine conditions of R57, for a convoy that holds section `i`. -/
structure RouteFits (r : Road) (i : SectionId) (steps : List RouteStep) : Prop where
  first : steps.head?.map RouteStep.sec = some i
  defined : ∀ t ∈ steps, (r.sect t.sec).defn.isSome = true
  once : (steps.map RouteStep.sec).Nodup
  allowed : ∀ t ∈ steps, ∀ d, (r.sect t.sec).defn = some d → ∀ a, d.allowed = some a → t.dir = a
  dock : ∀ n t d, steps[n]? = some t → (r.sect t.sec).defn = some d → d.kind = .dock → 2 ≤ steps.length →
    if n = 0 then t.dir = .bToA ∧ t.travel = .reverse else t.dir = .aToB ∧ n + 1 = steps.length
  joined : ∀ n t u d e, steps[n]? = some t → steps[n + 1]? = some u → (r.sect t.sec).defn = some d →
    (r.sect u.sec).defn = some e → (d.exitMarker t.dir).isSome = true ∧ e.entryMarker u.dir = d.exitMarker t.dir
  links : (∀ t, steps.head? = some t → t.link = false) ∧ (∀ t, steps.getLast? = some t → t.link = false)
    ∧ ¬ ∃ n, ∀ k < 4, ∃ t, steps[n + k]? = some t ∧ t.link = true
  branches : ∀ t ∈ steps, ∀ d, (r.sect t.sec).defn = some d → (t.branch = .plain ↔ d.junction = none)
  points : ∀ t d, steps.head? = some t → (r.sect t.sec).defn = some d → t.branch = r.branchNow d

/-- A minute later, with every carry; the second and the fraction as they are (R159). -/
def LayoutClock.nextMinute (k : LayoutClock) : LayoutClock :=
  { k with
      minute := if k.minute = 59 then 0 else k.minute + 1,
      hour := if k.minute ≠ 59 then k.hour else if k.hour = 23 then 0 else k.hour + 1,
      day := if k.minute ≠ 59 ∨ k.hour ≠ 23 then k.day else if k.day = 7 then 1 else k.day + 1 }

/-- An ENABLED entry that matches the clock (R166). -/
def Departure.matches (k : LayoutClock) (e : Departure) : Prop :=
  e.enabled = true ∧ (∀ n, e.day = some n → n = k.day) ∧ (∀ n, e.hour = some n → n = k.hour)
    ∧ (∀ n, e.minute = some n → n = k.minute)

/-- A part whose clock has just shown a new minute, before an entry is examined: no entry has fired, and the pulses are marked
(R159, R160). -/
def Part.newMinute (p : Part) : Part :=
  { p with
      departures := Table.mapAll (fun _ e => { e with fired := false }) p.departures,
      pulses := { minute := true, quarter := p.pulses.quarter || decide (p.clock.minute % 15 = 0),
                  hour := p.pulses.hour || decide (p.clock.minute = 0) } }

/-- The part after the first `n` entries have been examined, each matching one fired before the next is examined (R166). -/
def Part.examined (n : Nat) (p : Part) : Part :=
  ((List.finRange 8).take n).foldl (fun x i => if (Table.at x.departures i).due x.clock then fireDeparture i x else x) p

/-- A START entry `e` that part `x` honours: its convoy departs, and the park hold is not in effect (R168). -/
def Part.honours (x : Part) (e : Departure) : Prop :=
  ∃ c, e.convoy = some c ∧ (x.road.convoy c).departs = true ∧ x.parkHold = false

/-- The part `q` after a minute change of `p`, whose clock has its new value (R159, R160, R166 to R169): the entries are examined in
ascending order; the fired flags tell the entries that match, and each of them is in DEPARTURE_FIRED's subject set; a START that
fires and is not honoured by the part as it is then found is counted and is in DEPARTURE_MISSED's subject set, and no other count
rises. Blocks a departure cannot reach are as they were. -/
structure MinuteChanged (p q : Part) : Prop where
  order : q = p.newMinute.examined 8
  clock : q.clock = p.clock
  pulses : q.pulses = p.newMinute.pulses
  fired : ∀ i, (Table.at q.departures i).fired = true ↔ (Table.at p.departures i).matches p.clock
  counted : ∀ i, let e := Table.at p.departures i
    e.matches p.clock → e.action = .start → ¬ (p.newMinute.examined i.val).honours e →
      (Table.at q.departures i).missed = countUp 255 e.missed
        ∧ (Table.at q.road.notices.sources srcDepartureMissed).pending = true
        ∧ (Table.at q.road.notices.sources srcDepartureMissed).subjects.getLsbD i.val = true
  uncounted : ∀ i, let e := Table.at p.departures i
    (¬ e.matches p.clock ∨ e.action ≠ .start ∨ (p.newMinute.examined i.val).honours e) →
      (Table.at q.departures i).missed = e.missed
  entries : ∀ i, Table.at q.departures i = { Table.at p.departures i with
    fired := (Table.at q.departures i).fired, missed := (Table.at q.departures i).missed }
  told : ∀ i, (Table.at p.departures i).matches p.clock →
    (Table.at q.road.notices.sources srcDepartureFired).pending = true
      ∧ (Table.at q.road.notices.sources srcDepartureFired).subjects.getLsbD i.val = true
  rest : q.markers = p.markers ∧ q.drivers = p.drivers ∧ q.cells = p.cells ∧ q.composer = p.composer ∧ q.time = p.time
  quiet : (∀ i, ¬ (Table.at p.departures i).matches p.clock) → q.road = p.road ∧ q.mode = p.mode

/-! ## What a road event leaves as it was -/

/-- What no report, grant, withdrawal, hand-back or halt changes in a convoy: that it is formed, its members' slots and
trailers, its tuning, and what SHL set. A halt end alone sets re-arm, and the timetable demand to 0; none clears re-arm. -/
structure Convoy.Kept (v v' : Convoy) : Prop where
  formed : v'.state.formed = v.state.formed
  slots : v'.members.map Member.slot = v.members.map Member.slot
  trailers : v'.members.map Member.trailers = v.members.map Member.trailers
  priority : v'.priority = v.priority
  source : v'.source = v.source
  hostSpeed : v'.hostSpeed = v.hostSpeed
  cruise : v'.cruise = v.cruise
  ramp : v'.ramp = v.ramp
  rearm : v.halt.rearm = true → v'.halt.rearm = true
  ttDemand : v'.ttDemand = v.ttDemand ∨ (v'.ttDemand = 0 ∧ v'.halt.rearm = true)
  lag : v'.lag = v.lag
  gapMin : v'.gapMin = v.gapMin
  gapMax : v'.gapMax = v.gapMax
  trimStep : v'.trimStep = v.trimStep
  enabled : v'.halt.enabled = v.halt.enabled
  throttle : v'.halt.throttle = v.halt.throttle
  lights : v'.halt.lights = v.halt.lights
  restart : v'.halt.restart = v.halt.restart

/-- What reports, grants and halts leave of a section: its definition, and its whole state unless it is FREE. A holding after
them is the one before, or a fresh one with counts 0. -/
structure Section.Kept (v v' : Section) : Prop where
  defn : v'.defn = v.defn
  status : v.status ≠ .free → v'.status = v.status
  counts : ∀ h, v'.status.holding = some h → v.status.holding = some h ∨ (h.entered = 0 ∧ h.exited = 0)

/-- What a hand-back and the pass after it leave of a section: the same, but that a GRANTED one may become FREE. -/
structure Section.HandedBack (v v' : Section) : Prop where
  defn : v'.defn = v.defn
  status : (v.status ≠ .free ∧ ∀ h, v.status ≠ .granted h) → v'.status = v.status
  counts : ∀ h, v'.status.holding = some h → v.status.holding = some h ∨ (h.entered = 0 ∧ h.exited = 0)

/-- What those events leave of a line: everything but its junction value. -/
def Line.Kept (l l' : Line) : Prop := l' = { l with junction := l'.junction }

/-- What a raise leaves of a notice source; only CONVOY_HALTED, GRANT_PROMOTED and CONVOY_ARRIVED are raised. -/
structure NoticeControl.Kept (k k' : NoticeControl) : Prop where
  seq : k'.seq = k.seq
  enabled : ∀ i, (Table.at k'.sources i).enabled = (Table.at k.sources i).enabled
  announced : ∀ i, (Table.at k'.sources i).announced = (Table.at k.sources i).announced
  priority : ∀ i, (Table.at k'.sources i).priority = (Table.at k.sources i).priority
  pending : ∀ i, (Table.at k.sources i).pending = true → (Table.at k'.sources i).pending = true
  others : ∀ i, i ≠ srcConvoyHalted → i ≠ srcGrantPromoted → i ≠ srcConvoyArrived →
    Table.at k'.sources i = Table.at k.sources i

/-- What the reports, the arbiter and the halt unit leave of the road. -/
structure Road.Kept (r r' : Road) : Prop where
  convoys : ∀ c, Convoy.Kept (r.convoy c) (r'.convoy c)
  sections : ∀ i, Section.Kept (r.sect i) (r'.sect i)
  lines : ∀ l, Line.Kept (r.line l) (r'.line l)
  notices : NoticeControl.Kept r.notices r'.notices

/-- What a hand-back with all that follows it leaves of the road. -/
structure Road.HandedBack (r r' : Road) : Prop where
  convoys : ∀ c, Convoy.Kept (r.convoy c) (r'.convoy c)
  sections : ∀ i, Section.HandedBack (r.sect i) (r'.sect i)
  lines : ∀ l, Line.Kept (r.line l) (r'.line l)
  notices : NoticeControl.Kept r.notices r'.notices

/-- No convoy asks for a group, and none is on the promotion list. -/
def NoRequests (r : Road) : Prop := (∀ c, r.request c = none) ∧ r.promotions = []

/-- Nothing acts on the halts: every cell output false, no section in FAULT, no formed convoy driven by a LOST driver, no
convoy HALTED. -/
def AllClear (p : Part) : Prop :=
  (∀ k, (Table.at p.cells k).output = false) ∧ (∀ i, (p.road.sect i).status.isFault = false)
    ∧ (∀ c, driverLostActive p.drivers (p.road.convoy c) = false) ∧ ∀ c, (p.road.convoy c).state.isHalted = false

/-! ## Laws -/

/-- The link port: at most four requests wait, a free slot leaves none waiting before RST, an IDLE transmitter has nothing
left to do, and the counts stay in range (R190 to R194). -/
def LinkLaw (s : State) : Prop :=
  s.link.inbound.length ≤ 4
    ∧ (s.link.slot = none → s.link.inbound = [] ∨ s.link.rstTaken = true)
    ∧ (s.link.tx = .idle → s.link.slot = none ∧ s.link.inbound = [] ∧ s.link.rstTaken = false)
    ∧ s.link.framingErrors ≤ 255 ∧ s.link.checkErrors ≤ 255 ∧ s.link.overruns ≤ 255

/-- The scale clock shows a time (00_scope.md section 5, R158, R161). -/
def ClockLaw (s : State) : Prop :=
  let k := s.part.clock
  1 ≤ k.day ∧ k.day ≤ 7 ∧ k.hour ≤ 23 ∧ k.minute ≤ 59 ∧ k.second ≤ 59 ∧ k.fraction ≤ 999 ∧ 1 ≤ k.ratio ∧ k.ratio ≤ 12

/-- While the park hold is in effect no slot is on air (R136). -/
def ParkLaw (s : State) : Prop :=
  s.part.parkHold = true → ∀ i, (Table.at s.part.composer.slots i).onAir ≠ .onAir

/-- A source is announced only while it is pending, and sources 0 to 3 have no subjects (R197, R199). -/
def NoticeLaw (s : State) : Prop :=
  ∀ i, ((Table.at s.part.road.notices.sources i).announced = true →
          (Table.at s.part.road.notices.sources i).pending = true)
    ∧ (i.val ≤ 3 → (Table.at s.part.road.notices.sources i).subjects = 0)

/-- In every section with a holder the exited count does not exceed the entered count, nor the entered count the holder's
member count (R8); a VACANT convoy has no members (R52). -/
def CountLaw (s : State) : Prop :=
  (∀ i h, (s.part.road.sect i).status.holding = some h →
      h.exited ≤ h.entered ∧ h.entered ≤ (s.part.road.convoy h.convoy).memberCount)
    ∧ ∀ c, (s.part.road.convoy c).state.formed = false → (s.part.road.convoy c).members = []

end Sys2Proof.Machine
end

