-- ==== Sys2Proof/Certificates/Slice0/Obligations.lean ====
section
/-! DEFINITION. The statements about the model. A request is stated over a part that is `Ready` and an event over one that is
`Quiet` (Safety.lean); what happens when requests pile up, when a message is on the line and while the part is held in reset is
stated on its own. -/

open Sys2Proof Sys2Proof.Machine

/-! ## The step -/

/-- A step takes the command at the front and runs exec on the queue's rest. -/
def Obligations.StepRunsTheFrontCommand : Prop :=
  ∀ (c : Instr) (rest : List Instr) (s : State), step { s with pending := c :: rest } = exec c { s with pending := rest }

/-- On an empty queue a millisecond passes (log entries 1, 2, 10, 13 and 38, the model's choices): nothing in a held part; in a
running one the timers run down, the fraction of a RUNNING clock rises by the ratio, and what falls due joins the queue. -/
def Obligations.EmptyQueuePassesAMillisecond : Prop :=
  ∀ s : State, s.pending = [] →
    (s.resets.held = true → step s = .next s)
    ∧ (s.resets.held = false → ∃ t, step s = .next t
        ∧ t.resets = s.resets ∧ t.part.time.now = s.part.time.now + 1
        ∧ (∀ i, (t.part.road.sect i).settle = (s.part.road.sect i).settle.map fun n => n - 1)
        ∧ (∀ d left, (Table.at s.part.drivers.handsets d).presence = .present left →
            (Table.at t.part.drivers.handsets d).presence = .present (left - 1))
        ∧ (∀ l, t.part.road.line l = { s.part.road.line l with
            flash := (s.part.road.line l).flash.map fun f => { phase := f.phase, left := f.left - 1 } })
        ∧ t.part.time.frameDue = s.part.time.frameDue - 1
        ∧ t.part.clock = { s.part.clock with fraction :=
            if s.part.clock.running = true ∧ s.part.clock.fraction + s.part.clock.ratio < 1000
            then s.part.clock.fraction + s.part.clock.ratio else s.part.clock.fraction }
        ∧ t.link = { s.link with
            gap := s.link.gap.map fun n => n - 1,
            tx := match s.link.tx, s.link.rate with
              | .sending f left, .baud57600 => .sending f (left - 576)
              | .sending f left, .baud230400 => .sending f (left - 2304)
              | .idle, _ => .idle }
        ∧ t.part.cells = s.part.cells ∧ t.part.composer = s.part.composer ∧ t.part.mode = s.part.mode
        ∧ t.part.markers = s.part.markers ∧ t.part.departures = s.part.departures
        ∧ t.part.road.convoys = s.part.road.convoys ∧ t.part.road.requests = s.part.road.requests
        ∧ t.part.road.notices = s.part.road.notices
        ∧ (Instr.markerTimeTick ∈ t.pending ↔ t.part.time.now % 10 = 0)
        ∧ (Instr.cellScan ∈ t.pending ↔ t.part.time.now % 5 = 0)
        ∧ (Instr.frameStart ∈ t.pending ↔ t.part.time.frameDue = 0)
        ∧ (∀ i, Instr.settleTimerExpiry i ∈ t.pending ↔ (t.part.road.sect i).settle = some 0)
        ∧ (∀ d, Instr.lostTimerExpiry d ∈ t.pending ↔ (Table.at t.part.drivers.handsets d).presence = .present 0)
        ∧ (Instr.scaleSecond ∈ t.pending ↔
            s.part.clock.running = true ∧ 1000 ≤ s.part.clock.fraction + s.part.clock.ratio)
        ∧ (∀ m, Instr.holdOffExpiry m ∈ t.pending ↔
            (Table.at s.part.markers.markers m).state = .settling
              ∧ ∃ since, (Table.at s.part.markers.markers m).since = some since
                ∧ s.part.markers.holdOff / 10
                    ≤ ((if t.part.time.now % 10 = 0 then s.part.markers.time + 1 else s.part.markers.time) - since).toNat)
        ∧ (∀ l, Instr.flashToggle l ∈ t.pending ↔ ∃ f, (t.part.road.line l).flash = some f ∧ f.left = 0)
        ∧ (Instr.gapTimerExpiry ∈ t.pending ↔ t.link.gap = some 0 ∧ t.link.rstTaken = false)
        ∧ (Instr.messageSent ∈ t.pending ↔ ∃ f, t.link.tx = .sending f 0))

/-! ## Laws every step keeps -/

/-- R190 to R194. -/
def Obligations.LinkLawIsKept : Prop := ∀ s t : State, LinkLaw s → step s = .next t → LinkLaw t

/-- R158, R161. -/
def Obligations.ClockShowsATime : Prop := ∀ s t : State, ClockLaw s → step s = .next t → ClockLaw t

/-- R136, R143. -/
def Obligations.NoSlotOnAirUnderTheParkHold : Prop := ∀ s t : State, ParkLaw s → step s = .next t → ParkLaw t

/-- R197, R199. -/
def Obligations.AnnouncedSourcesArePending : Prop := ∀ s t : State, NoticeLaw s → step s = .next t → NoticeLaw t

/-- R8, R52. -/
def Obligations.CountsStayInRange : Prop := ∀ s t : State, CountLaw s → step s = .next t → CountLaw t

def Obligations.LawsHoldAtReset : Prop :=
  LinkLaw State.reset ∧ ClockLaw State.reset ∧ ParkLaw State.reset ∧ NoticeLaw State.reset ∧ CountLaw State.reset

/-! ## The host link -/

/-- The bytes of a well-formed frame, one after another, are the request they carry (R188, R189, R206): over a link that has
nothing to do at the end of an event, the receiver in HUNT. -/
def Obligations.FrameBytesAreARequest : Prop :=
  ∀ (kind tag : Byte) (body : List Byte) (s : State),
    body.length ≤ 60 → Quiet s → transmit s = s → s.link.rstTaken = false → s.link.receiver = .hunt →
      runAll (arriving (frameOf kind tag body)) s
        = receiveRequest { kind, tag, body } { s with link := { s.link with gap := none } }

/-- R207: the check over the ASCII digits 1 to 9. -/
def Obligations.CheckOfTheNineDigits : Prop :=
  crc [0x31, 0x32, 0x33, 0x34, 0x35, 0x36, 0x37, 0x38, 0x39] = 0x29B1

/-- Each byte from the host, by the receiver's state (R188, R189, R191). A length byte outside 2 to 62 abandons the frame and is
examined again in HUNT. A byte taken before the expiry that came with it starts the gap timer again, and the expiry then does
nothing. That GAP_TIMER_EXPIRY in HUNT changes nothing is log entry 8, and that a LINK_ERROR notice starts at the end of the event
log entry 4, the model's choices. -/
def Obligations.ReceiverFollowsTheBytes : Prop :=
  ∀ s : State, Quiet s → transmit s = s → s.link.rstTaken = false →
    (s.link.receiver = .hunt →
        exec (.byteReceived .bad) s = .next s ∧ exec .gapTimerExpiry s = .next s
        ∧ (∀ b, b ≠ 0xA6 → exec (.byteReceived (.good b)) s = .next s)
        ∧ exec (.byteReceived (.good 0xA6)) s = .next { s with link := { s.link with receiver := .length, gap := some 5 } })
    ∧ (s.link.receiver = .length → ∀ b : Byte, 2 ≤ b.toNat → b.toNat ≤ 62 →
        exec (.byteReceived (.good b)) s = .next { s with link := { s.link with receiver := .body b [], gap := some 5 } })
    ∧ (s.link.receiver = .length → ∀ b : Byte, b.toNat < 2 ∨ 62 < b.toNat →
        exec (.byteReceived (.good b)) s
          = .next (transmit
              { s with link := { s.link with receiver := if b = 0xA6 then .length else .hunt,
                                             gap := if b = 0xA6 then some 5 else none,
                                             framingErrors := countUp 255 s.link.framingErrors },
                       part := { s.part with road := s.part.road.raise srcLinkError 0 } }))
    ∧ (∀ len got b, s.link.receiver = .body len got → got.length + 1 ≠ len.toNat + 2 →
        exec (.byteReceived (.good b)) s
          = .next { s with link := { s.link with receiver := .body len (got ++ [b]), gap := some 5 } })
    ∧ (∀ (len : Byte) (got : List Byte) (b : Byte), s.link.receiver = .body len got → got.length + 1 = len.toNat + 2 →
        (got ++ [b]).drop len.toNat ≠ halfBytes (crc (len :: (got ++ [b]).take len.toNat)).toNat →
        exec (.byteReceived (.good b)) s
          = .next (transmit
              { s with link := { s.link with receiver := .hunt, gap := none,
                                             checkErrors := countUp 255 s.link.checkErrors },
                       part := { s.part with road := s.part.road.raise srcLinkError 0 } }))
    ∧ (s.link.gap ≠ some 0 → exec .gapTimerExpiry s = .next s)
    ∧ (s.link.receiver ≠ .hunt →
        let abandoned := transmit
          { s with link := { s.link with receiver := .hunt, gap := none,
                                         framingErrors := countUp 255 s.link.framingErrors },
                   part := { s.part with road := s.part.road.raise srcLinkError 0 } }
        exec (.byteReceived .bad) s = .next abandoned
        ∧ (s.link.gap = some 0 → exec .gapTimerExpiry s = .next abandoned))

/-- A request that finds the reply slot and the queue empty while a message is on the line is taken at once: it does what it does
where the transmitter is IDLE, and its reply waits in the slot. One that cannot be taken waits, up to four of them; one that comes
behind four is lost as an overrun, and after RST every request is discarded uncounted (R186, R190, R191, R193). -/
def Obligations.RequestsWaitOrOverrun : Prop :=
  ∀ (c : Instr) (r : Request) (s : State) (f : List Byte) (n : Nat),
    asRequest? c = some r → s.resets.held = false → s.link.tx = .sending f n →
      (s.link.rstTaken = true → exec c s = .next s)
      ∧ (s.link.rstTaken = false → s.link.slot = none → s.link.inbound = [] →
          ∃ t reply, exec c { s with link := { s.link with tx := .idle } } = .next t
            ∧ t.link.tx = .sending reply (reply.length * 100)
            ∧ exec c s = .next { t with link := { t.link with tx := .sending f n, slot := some reply } })
      ∧ (s.link.rstTaken = false → s.link.slot.isSome = true → s.link.inbound.length < 4 →
          exec c s = .next { s with link := { s.link with inbound := s.link.inbound ++ [r] } })
      ∧ (s.link.rstTaken = false → s.link.slot.isSome = true → 4 ≤ s.link.inbound.length →
          exec c s = .next { s with
            link := { s.link with overruns := if s.link.overruns < 255 then s.link.overruns + 1 else s.link.overruns },
            part := { s.part with road := s.part.road.raise srcLinkError 0 } })

/-- The end of a message (R193, R194, R199): the waiting reply goes first, and a request that waited, of any kind, is taken behind
it: it does what it does where the transmitter is IDLE, and its reply waits. Without a reply the chosen notice goes, or the
transmitter rests. -/
def Obligations.AMessageEnds : Prop :=
  ∀ (s : State) (old : List Byte) (n : Nat),
    s.resets.held = false → s.link.rstTaken = false → s.link.tx = .sending old n →
      (∀ f, s.link.slot = some f → s.link.inbound = [] →
        exec .messageSent s
          = .next { s with link := { s.link with tx := .sending f (f.length * 100), slot := none } })
      ∧ (∀ f r rest g, s.link.slot = some f → s.link.inbound = r :: rest → handle r = onPart g →
          exec .messageSent s
            = .next { s with
                part := (g s.part).1,
                link := { s.link with tx := .sending f (f.length * 100), inbound := rest,
                                      slot := some (replyFrame r.kind r.tag (g s.part).2) } })
      ∧ (∀ f r rest c, s.link.slot = some f → s.link.inbound = r :: rest → asRequest? c = some r →
          ∃ t reply, exec c { s with link := { s.link with tx := .idle, slot := none, inbound := [] } } = .next t
            ∧ t.link.tx = .sending reply (reply.length * 100)
            ∧ exec .messageSent s
              = .next { t with
                  link := { t.link with tx := .sending f (f.length * 100), slot := some reply, inbound := rest } })
      ∧ (s.link.slot = none → s.link.inbound = [] → s.part.road.notices.next? = none →
          exec .messageSent s = .next { s with link := { s.link with tx := .idle } })
      ∧ (∀ i, s.link.slot = none → s.link.inbound = [] → s.part.road.notices.next? = some i →
          ∃ f t, exec .messageSent s = .next t
            ∧ f = noticeFrame s.part.road.notices.seq i (Table.at s.part.road.notices.sources i).subjects
            ∧ t = { s with
                  link := { s.link with tx := .sending f (f.length * 100) },
                  part := { s.part with road := { s.part.road with notices :=
                    { sources := Table.upd s.part.road.notices.sources i fun k => { k with announced := true },
                      seq := s.part.road.notices.seq + 1 } } } })

/-- R192, R208, R210: a request of a kind that names none; one whose body has the wrong length, fixed or told by a count or a
presence mask; one that names a record the part does not have (R5, R9 and the first check of each request); the first check of
FCV and LRT (R53, R56); and the lists of sources (R200 to R202). MOD's refusal carries the mode and the latch (R176). That a value out
of range is refused BADVAL before the state is looked at, as a flag above 1 of SOUT for an UNDEFINED section, is log entry 25, and
that the reply to an unknown kind which carries the reply mark keeps its byte log entry 36, the model's choices. -/
def Obligations.MalformedRequestsAreRefused : Prop :=
  (∀ (kind tag : Byte) (body : List Byte) (s : State), Ready s → requestKinds.contains kind = false →
    exec (.unknownKind kind tag body) s = .next (s.replied kind tag { status := .badKind, body := [] } s.part))
  ∧ (∀ (tag : Byte) (body : List Byte) (s : State), Ready s →
    let refused := fun (kind : Byte) =>
      (Host.Outcome.next (s.replied kind tag { status := .badLen, body := [] } s.part) : Host.Outcome State Fault Refusal)
    (body.length ≠ 9 → exec (.sdef tag body) s = refused 0x10)
    ∧ (body.length ≠ 2 → exec (.sout tag body) s = refused 0x11)
    ∧ (body.length ≠ 3 → exec (.srst tag body) s = refused 0x12)
    ∧ (body.length ≠ 1 → exec (.sqry tag body) s = refused 0x13)
    ∧ (body.length ≠ 2 → exec (.smk tag body) s = refused 0x14)
    ∧ (body.length ≠ 2 → exec (.qmk tag body) s = refused 0x15)
    ∧ (body.length ≠ 1 → exec (.dcv tag body) s = refused 0x21)
    ∧ (body.length ≠ 1 → exec (.run tag body) s = refused 0x23)
    ∧ (body.length ≠ 1 → exec (.stp tag body) s = refused 0x24)
    ∧ (body.length ≠ 2 → exec (.qcv tag body) s = refused 0x26)
    ∧ (body.length ≠ 2 → exec (.spd tag body) s = refused 0x28)
    ∧ (body.length ≠ 1 → exec (.qdr tag body) s = refused 0x29)
    ∧ (body.length ≠ 6 → exec (.shl tag body) s = refused 0x30)
    ∧ (body.length ≠ 1 → exec (.hlt tag body) s = refused 0x31)
    ∧ (body.length ≠ 1 → exec (.rsm tag body) s = refused 0x32)
    ∧ (body.length ≠ 1 → exec (.qcl tag body) s = refused 0x39)
    ∧ (body.length ≠ 5 → exec (.sch tag body) s = refused 0x41)
    ∧ (body.length ≠ 1 → exec (.key tag body) s = refused 0x42)
    ∧ (body.length ≠ 1 → exec (.rls tag body) s = refused 0x43)
    ∧ (body.length ≠ 1 → exec (.qsl tag body) s = refused 0x44)
    ∧ (body.length ≠ 1 → exec (.sfp tag body) s = refused 0x45)
    ∧ (body.length ≠ 2 → exec (.wln tag body) s = refused 0x49)
    ∧ (body.length ≠ 1 → exec (.qln tag body) s = refused 0x4A)
    ∧ (body.length ≠ 5 → exec (.sck tag body) s = refused 0x50)
    ∧ (body.length ≠ 1 → exec (.rck tag body) s = refused 0x51)
    ∧ (body.length ≠ 0 → exec (.adj tag body) s = refused 0x52)
    ∧ (body.length ≠ 0 → exec (.qck tag body) s = refused 0x53)
    ∧ (body.length ≠ 1 → exec (.qdp tag body) s = refused 0x55)
    ∧ (body.length ≠ 1 → exec (.mod tag body) s = refused 0x58)
    ∧ (body.length ≠ 0 → exec (.prl tag body) s = refused 0x5A)
    ∧ (body.length ≠ 0 → exec (.qst tag body) s = refused 0x60)
    ∧ (body.length ≠ 0 → exec (.rst tag body) s = refused 0x61)
    ∧ (21 < body.length → exec (.enn tag body) s = refused 0x62)
    ∧ (21 < body.length → exec (.dsn tag body) s = refused 0x63)
    ∧ (body.length % 2 = 1 ∨ 42 < body.length → exec (.prn tag body) s = refused 0x64)
    ∧ (21 < body.length → exec (.cln tag body) s = refused 0x65)
    ∧ (body.length ≠ 1 → exec (.qnt tag body) s = refused 0x66)
    ∧ (body.length < 7 → exec (.fcv tag body) s = refused 0x20)
    ∧ (body.length < 2 → exec (.lrt tag body) s = refused 0x22 ∧ exec (.tcv tag body) s = refused 0x25
        ∧ exec (.ssl tag body) s = refused 0x40 ∧ exec (.sln tag body) s = refused 0x48)
    ∧ (body.length < 3 → exec (.scl tag body) s = refused 0x38 ∧ exec (.sdp tag body) s = refused 0x54)
    ∧ (body = [] → exec (.smo tag body) s = refused 0x59)
    ∧ (∀ n m rest, body = n :: m :: rest →
        (body.length ≠ 7 + 2 * m.toNat → exec (.fcv tag body) s = refused 0x20)
        ∧ (body.length ≠ 2 + 2 * m.toNat → exec (.lrt tag body) s = refused 0x22)
        ∧ (rest.length ≠ maskLength tcvSizes m.toNat → exec (.tcv tag body) s = refused 0x25)
        ∧ (rest.length ≠ maskLength sslSizes m.toNat → exec (.ssl tag body) s = refused 0x40)
        ∧ (rest.length ≠ maskLength slnSizes m.toNat → exec (.sln tag body) s = refused 0x48)
        ∧ ((m :: rest).length ≠ maskLength smoSizes n.toNat → exec (.smo tag body) s = refused 0x59))
    ∧ (∀ n hi lo rest, body = n :: hi :: lo :: rest →
        (rest.length ≠ maskLength sclSizes (hi.toNat * 256 + lo.toNat) → exec (.scl tag body) s = refused 0x38)
        ∧ (rest.length ≠ maskLength sdpSizes (hi.toNat * 256 + lo.toNat) → exec (.sdp tag body) s = refused 0x54))
    ∧ (∀ m, body = [m] → m.toNat % 8 ≠ 0 → exec (.smo tag body) s = refused 0x59))
  ∧ (∀ (tag n a b c d e f g h : Byte) (s : State), Ready s →
    let refused := fun (req : Instr) (kind : Byte) =>
      exec req s = .next (s.replied kind tag { status := .badVal, body := [] } s.part)
    (64 ≤ n.toNat → refused (.sdef tag [n, a, b, c, d, e, f, g, h]) 0x10 ∧ refused (.sout tag [n, a]) 0x11
      ∧ refused (.srst tag [n, a, b]) 0x12 ∧ refused (.sqry tag [n]) 0x13)
    ∧ (8 ≤ n.toNat → refused (.dcv tag [n]) 0x21 ∧ refused (.run tag [n]) 0x23 ∧ refused (.stp tag [n]) 0x24
      ∧ refused (.qcv tag [n, a]) 0x26 ∧ refused (.spd tag [n, a]) 0x28 ∧ refused (.qdr tag [n]) 0x29
      ∧ refused (.shl tag [n, a, b, c, d, e]) 0x30 ∧ refused (.hlt tag [n]) 0x31 ∧ refused (.rsm tag [n]) 0x32
      ∧ refused (.qcl tag [n]) 0x39 ∧ refused (.qdp tag [n]) 0x55)
    ∧ (24 ≤ n.toNat → refused (.sch tag [n, a, b, c, d]) 0x41 ∧ refused (.key tag [n]) 0x42 ∧ refused (.rls tag [n]) 0x43
      ∧ refused (.qsl tag [n]) 0x44)
    ∧ (16 ≤ n.toNat → refused (.wln tag [n, a]) 0x49 ∧ refused (.qln tag [n]) 0x4A)
    ∧ (95 < n.toNat ∨ a.toNat < 1 ∨ 16 < a.toNat ∨ 96 < n.toNat + a.toNat → refused (.qmk tag [n, a]) 0x15)
    ∧ (4 < a.toNat → refused (.qcv tag [n, a]) 0x26)
    ∧ (1 < a.toNat → refused (.sout tag [n, a]) 0x11)
    ∧ (3 < b.toNat ∨ 1 < c.toNat → refused (.sch tag [n, b, c, d, e]) 0x41)
    ∧ (2 ≤ n.toNat → refused (.qnt tag [n]) 0x66)
    ∧ (3 < n.toNat → exec (.mod tag [n]) s = .next (s.replied 0x58 tag
        { status := .badVal, body := [b8 (modeCode s.part.mode.mode), flagB s.part.mode.latch] } s.part)))
  ∧ ∀ (tag : Byte) (s : State), Ready s →
    let refused := fun (req : Instr) (kind : Byte) =>
      exec req s = .next (s.replied kind tag { status := .badVal, body := [] } s.part)
    (∀ n m rest,
      (8 ≤ n.toNat → rest.length = maskLength tcvSizes m.toNat → refused (.tcv tag (n :: m :: rest)) 0x25)
      ∧ (24 ≤ n.toNat → rest.length = maskLength sslSizes m.toNat → refused (.ssl tag (n :: m :: rest)) 0x40)
      ∧ (16 ≤ n.toNat → rest.length = maskLength slnSizes m.toNat → refused (.sln tag (n :: m :: rest)) 0x48))
    ∧ (∀ n hi lo rest,
      (8 ≤ n.toNat → rest.length = maskLength sclSizes (hi.toNat * 256 + lo.toNat) →
        refused (.scl tag (n :: hi :: lo :: rest)) 0x38)
      ∧ (8 ≤ n.toNat → rest.length = maskLength sdpSizes (hi.toNat * 256 + lo.toNat) →
        refused (.sdp tag (n :: hi :: lo :: rest)) 0x54))
    ∧ (∀ (convoy n home dir travel source driver : Byte) (ms : List (Byte × Byte)), ms.length = n.toNat →
      (8 ≤ convoy.toNat ∨ n = 0 ∨ 6 < n.toNat ∨ 64 ≤ home.toNat ∨ 1 < dir.toNat ∨ 1 < travel.toNat ∨ 2 < source.toNat
        ∨ (source = 2 ∧ 8 ≤ driver.toNat) ∨ ∃ m ∈ ms, 24 ≤ m.1.toNat ∨ 2 < m.2.toNat) →
      refused (.fcv tag ([convoy, n, home, dir, travel, source, driver] ++ ms.flatMap fun m => [m.1, m.2])) 0x20)
    ∧ (∀ (convoy n : Byte) (ts : List (Byte × Byte)), ts.length = n.toNat →
      (8 ≤ convoy.toNat ∨ n = 0 ∨ 16 < n.toNat
        ∨ ∃ t ∈ ts, 64 ≤ t.1.toNat ∨ 32 ≤ t.2.toNat ∨ t.2.toNat / 2 % 4 = 3) →
      refused (.lrt tag ([convoy, n] ++ ts.flatMap fun t => [t.1, t.2])) 0x22)
    ∧ (∀ body : List Byte, body.length ≤ 21 → (∃ b ∈ body, 21 ≤ b.toNat) →
      refused (.enn tag body) 0x62 ∧ refused (.dsn tag body) 0x63 ∧ refused (.cln tag body) 0x65)
    ∧ ∀ es : List (Byte × Byte), es.length ≤ 21 → (∃ e ∈ es, 21 ≤ e.1.toNat ∨ 7 < e.2.toNat) →
      refused (.prn tag (es.flatMap fun e => [e.1, e.2])) 0x64

/-! ## Resets -/

/-- RST is replied to and from then on the link takes nothing; when its reply has left the line the part is held for a COMMAND
reset (R186, R185). That the receiver stands in HUNT with its gap timer stopped, and that no line is driven, from the moment the
reset begins is log entry 39, the model's choice. -/
def Obligations.RstResetsAfterItsReply : Prop :=
  (∀ (tag : Byte) (s : State), Ready s →
      exec (.rst tag []) s
        = .next { s.replied 0x61 tag okReply s.part with link := { (s.replied 0x61 tag okReply s.part).link with rstTaken := true } })
  ∧ ∀ (s : State) (f : List Byte) (n : Nat),
      s.resets.held = false → s.link.rstTaken = true → s.link.slot = none → s.link.tx = .sending f n →
        ∃ t, exec .messageSent s = .next t ∧ t.resets = { s.resets with held := true } ∧ t.link.tx = .idle
          ∧ t.link.inbound = [] ∧ t.link.receiver = .hunt ∧ t.link.gap = none ∧ t.link.rstTaken = false
          ∧ (∀ l, (t.part.road.line l).pinOut t.part.parkHold t.part.cells = none)
          ∧ (s.resets.supplyRisen = false → s.resets.lineAsserted = false → t.resets.cause = .command)

/-- POWER_ON, RESET_LINE and a falling supply hold the part: its work is discarded, and it drives no line (R185, log entry 39). -/
def Obligations.ResetsHoldThePart : Prop :=
  ∀ s : State,
    (∃ t, exec .powerOn s = .next t ∧ t.resets = { s.resets with held := true, supplyUp := true, supplyRisen := true }
      ∧ t.pending = s.pending ∧ t.link.tx = .idle ∧ t.link.slot = none ∧ t.link.inbound = [] ∧ t.link.gap = none
      ∧ t.link.receiver = .hunt ∧ t.part.road.requests = Table.all none ∧ t.part.road.settling = []
      ∧ (∀ i, (t.part.road.sect i).settle = none ∧ (t.part.road.sect i).defn = (s.part.road.sect i).defn)
      ∧ (∀ l, (t.part.road.line l).pinOut t.part.parkHold t.part.cells = none)
      ∧ t.resets.cause = .powerOn)
    ∧ (∃ t, exec .resetLine s = .next t ∧ t.resets = { s.resets with held := true, lineAsserted := true }
      ∧ t.pending = s.pending ∧ t.link.tx = .idle ∧ t.link.slot = none ∧ t.link.inbound = [] ∧ t.link.gap = none
      ∧ t.link.receiver = .hunt ∧ t.part.road.requests = Table.all none ∧ t.part.road.settling = []
      ∧ (∀ i, (t.part.road.sect i).settle = none ∧ (t.part.road.sect i).defn = (s.part.road.sect i).defn)
      ∧ (∀ l, (t.part.road.line l).pinOut t.part.parkHold t.part.cells = none)
      ∧ (s.resets.supplyRisen = false → t.resets.cause = .resetLine))
    ∧ (∃ t, exec .supplyBelowOperatingLevel s = .next t ∧ t.resets = { s.resets with held := true, supplyUp := false }
      ∧ t.pending = s.pending ∧ t.link.tx = .idle ∧ t.link.slot = none ∧ t.link.inbound = [] ∧ t.link.gap = none
      ∧ t.link.receiver = .hunt ∧ t.part.road.requests = Table.all none ∧ t.part.road.settling = []
      ∧ (∀ i, (t.part.road.sect i).settle = none ∧ (t.part.road.sect i).defn = (s.part.road.sect i).defn)
      ∧ (∀ l, (t.part.road.line l).pinOut t.part.parkHold t.part.cells = none))

/-- What stands after a POWER_ON reset is left with the strap low and every pin LOW is State.reset (the reset rules of each
chapter; log entry 5 for strap and pins). -/
def Obligations.LeavingPowerOnGivesTheResetState : Prop :=
  ∀ s : State, s.resets.held = true → s.resets.supplyUp = true → s.resets.supplyRisen = true →
    exec (.leaveReset .low 0) s = .next { State.reset with pending := s.pending }

/-- After a RESET_LINE or COMMAND reset (R49, R74, R92, R127, R145, R157, R174, R185, R187, R196, R204): definitions and settings
stand, everything that ran is gone, and RESTARTED is on the line. Every record of the part is given whole. -/
def Obligations.LeavingAWarmResetKeepsTheSettings : Prop :=
  ∀ (s : State) (strap : Strap) (pins : Half),
    s.resets.held = true → s.resets.supplyUp = true → s.resets.supplyRisen = false →
      ∃ t, exec (.leaveReset strap pins) s = .next t
        ∧ t.pending = s.pending
        ∧ t.resets = { held := false, supplyUp := true, supplyRisen := false, lineAsserted := false }
        ∧ t.link = { receiver := .hunt, gap := none, inbound := [], slot := none, tx := .sending restartedFrame 1500,
                     framingErrors := 0, checkErrors := 0, overruns := 0, rstTaken := false,
                     rate := match strap with | .low => .baud57600 | .high => .baud230400 }
        ∧ t.part.time = { now := 0, frameDue := s.part.composer.period }
        ∧ t.part.markers.holdOff = s.part.markers.holdOff ∧ t.part.markers.time = 0
        ∧ (∀ m, Table.at t.part.markers.markers m = { state := .unknown, since := none, lastPulse := none })
        ∧ (∀ i, t.part.road.sect i =
            { defn := (s.part.road.sect i).defn,
              status := if (s.part.road.sect i).defn.isSome then .out .reset else .undefined,
              queue := [], earmark := none, settle := none })
        ∧ (∀ c, t.part.road.request c = none) ∧ t.part.road.arrivals = 0 ∧ t.part.road.promotions = []
        ∧ t.part.road.settling = []
        ∧ (∀ c, t.part.road.convoy c =
            { state := .vacant, members := [], priority := 4, source := .host, hostSpeed := 0, cruise := 30, ramp := 5,
              ttDemand := 0, lag := 3, gapMin := 150, gapMax := 400, trimStep := 2, route := [], lead := 0, tail := 0,
              furthest := 0, history := [], asked := none,
              halt := { enabled := 0x1F00, causes := 0, throttle := .neutral, lights := .hazard, restart := .manual,
                        rearm := false } })
        ∧ (∀ l, t.part.road.line l =
            { s.part.road.line l with drive := .released, flash := none, frozen := none,
                                      wire := if pins.getLsbD l.val then .high else .low })
        ∧ (∀ d, Table.at t.part.drivers.handsets d =
            { throttle := 0, horn := false, halt := false, aux := false, presence := .lost }) ∧ t.part.drivers.errors = 0
        ∧ (∀ k, Table.at t.part.cells k = { Table.at s.part.cells k with
            enabled := false, latch := false, remaining := 0, last := none, reload := false, output := false })
        ∧ t.part.pulses = { minute := false, quarter := false, hour := false }
        ∧ (∀ i, Table.at t.part.composer.slots i =
            { settings := (Table.at s.part.composer.slots i).waiting.getD (Table.at s.part.composer.slots i).settings,
              channels := (Table.at s.part.composer.slots i).channels, waiting := none, keyed := false, onAir := .offAir,
              direction := none, neutralSince := none, sent := none })
        ∧ t.part.composer = { slots := t.part.composer.slots, period := s.part.composer.period,
                              interval := s.part.composer.period, frameTime := 0, airFrame := none }
        ∧ t.part.clock = s.part.clock
        ∧ (∀ e, Table.at t.part.departures e = { Table.at s.part.departures e with fired := false })
        ∧ t.part.mode = { s.part.mode with mode := .hold, latch := false,
                                           cause := if s.resets.lineAsserted then .resetLine else .command }
        ∧ (∀ i, (Table.at t.part.road.notices.sources i)
            = { pending := decide (i = srcRestarted), enabled := decide (i = srcRestarted),
                announced := decide (i = srcRestarted), priority := 4, subjects := 0 })
        ∧ t.part.road.notices.seq = 1

/-- While the part is held in reset no command but the resets acts, and of a line only its wire is followed (R185; log entries 6,
7 and 12). -/
def Obligations.AHeldPartTakesNothing : Prop :=
  ∀ s : State,
    (s.resets.held = true → ∀ c : Instr, (asRequest? c).isSome = true → exec c s = .next s)
    ∧ (s.resets.held = true → ∀ c ∈ [Instr.markerTimeTick, .cellScan, .frameStart, .scaleSecond, .gapTimerExpiry, .messageSent],
        exec c s = .next s)
    ∧ (s.resets.held = true → ∀ b l m i d t u k n v,
        exec (.boardReport b l) s = .next s ∧ exec (.holdOffExpiry m) s = .next s ∧ exec (.settleTimerExpiry i) s = .next s
        ∧ exec (.handsetUpdate b t u) s = .next s ∧ exec (.lostTimerExpiry d) s = .next s ∧ exec (.oneShotExpiry k) s = .next s
        ∧ exec (.flashToggle n) s = .next s ∧ exec (.byteReceived v) s = .next s)
    ∧ (s.resets.held = true → ∀ l pin,
        exec (.linePinChange l pin) s
          = .next { s with part := { s.part with road := s.part.road.setLine l { s.part.road.line l with wire := pin } } })
    ∧ ((s.resets.held = false ∨ s.resets.supplyUp = false) → ∀ strap pins, exec (.leaveReset strap pins) s = .next s)

/-! ## Notices -/

/-- The notice the transmitter chooses (R199): announceable, of the highest priority, and of these the lowest number. -/
def Obligations.TheNoticeChosenIsTheFirst : Prop :=
  ∀ (k : NoticeControl) (i : SourceId),
    (k.next? = some i ↔
      (Table.at k.sources i).announceable = true
        ∧ ∀ j, (Table.at k.sources j).announceable = true →
            (Table.at k.sources j).priority < (Table.at k.sources i).priority
              ∨ ((Table.at k.sources j).priority = (Table.at k.sources i).priority ∧ i ≤ j))
    ∧ (k.next? = none ↔ ∀ j, (Table.at k.sources j).announceable = false)

/-- ENN, DSN and CLN over a list of at most 21 sources (R200, R202), and PRN, where the last entry of a source stands (R201). -/
def Obligations.NoticeListsActOnTheListedSources : Prop :=
  (∀ (srcs : List SourceId) (tag : Byte) (s : State), Ready s → srcs.length ≤ 21 →
    (∃ k, exec (.enn tag (srcs.map fun i => b8 i.val)) s
        = .next (s.replied 0x62 tag okReply { s.part with road := { s.part.road with notices := k } })
      ∧ k.seq = s.part.road.notices.seq
      ∧ ∀ i, Table.at k.sources i = { Table.at s.part.road.notices.sources i with
          enabled := decide (i ∈ srcs) || (Table.at s.part.road.notices.sources i).enabled })
    ∧ (∃ k, exec (.dsn tag (srcs.map fun i => b8 i.val)) s
        = .next (s.replied 0x63 tag okReply { s.part with road := { s.part.road with notices := k } })
      ∧ k.seq = s.part.road.notices.seq
      ∧ ∀ i, Table.at k.sources i = { Table.at s.part.road.notices.sources i with
          enabled := !decide (i ∈ srcs) && (Table.at s.part.road.notices.sources i).enabled })
    ∧ (∃ k t, exec (.cln tag (srcs.map fun i => b8 i.val)) s = .next t
      ∧ t.part = { s.part with road := { s.part.road with notices := k } }
      ∧ t.link.tx = .sending (replyFrame 0x65 tag okReply) ((replyFrame 0x65 tag okReply).length * 100)
      ∧ (t.link.framingErrors, t.link.checkErrors, t.link.overruns)
          = (if srcLinkError ∈ srcs then (0, 0, 0)
             else (s.link.framingErrors, s.link.checkErrors, s.link.overruns))
      ∧ t.link.inbound = [] ∧ t.link.slot = none ∧ t.resets = s.resets ∧ t.pending = s.pending
      ∧ k.seq = s.part.road.notices.seq
      ∧ ∀ i, Table.at k.sources i =
          (if i ∈ srcs then { Table.at s.part.road.notices.sources i with pending := false, announced := false, subjects := 0 }
           else Table.at s.part.road.notices.sources i)))
  ∧ ∀ (es : List (SourceId × Nat)) (tag : Byte) (s : State), Ready s → es.length ≤ 21 → (∀ e ∈ es, e.2 ≤ 7) →
    ∃ k, exec (.prn tag (es.flatMap fun e => [b8 e.1.val, b8 e.2])) s
        = .next (s.replied 0x64 tag okReply { s.part with road := { s.part.road with notices := k } })
      ∧ k.seq = s.part.road.notices.seq
      ∧ ∀ i, Table.at k.sources i = { Table.at s.part.road.notices.sources i with
          priority := ((es.reverse.find? fun e => e.1 = i).map Prod.snd).getD
            (Table.at s.part.road.notices.sources i).priority }

/-! ## Queries -/

/-- A query with an operand in range is answered OK and changes nothing but the reply on the line. -/
def Obligations.QueriesChangeNothing : Prop :=
  ∀ (tag : Byte) (s : State), Ready s →
    let answered := fun (c : Instr) (kind : Byte) => ∃ body, exec c s = .next (s.replied kind tag { status := .ok, body } s.part)
    (∀ i : SectionId, answered (.sqry tag [b8 i.val]) 0x13)
    ∧ (∀ first count : Nat, first ≤ 95 → 1 ≤ count → count ≤ 16 → first + count ≤ 96 →
        answered (.qmk tag [b8 first, b8 count]) 0x15)
    ∧ (∀ (c : ConvoyId) (k : Nat), k ≤ 4 → answered (.qcv tag [b8 c.val, b8 k]) 0x26)
    ∧ (∀ d : DriverId, answered (.qdr tag [b8 d.val]) 0x29)
    ∧ (∀ k : CellId, answered (.qcl tag [b8 k.val]) 0x39)
    ∧ (∀ i : SlotId, answered (.qsl tag [b8 i.val]) 0x44)
    ∧ (∀ l : LineId, answered (.qln tag [b8 l.val]) 0x4A)
    ∧ answered (.qck tag []) 0x53
    ∧ (∀ e : DepartureId, answered (.qdp tag [b8 e.val]) 0x55)
    ∧ answered (.qst tag []) 0x60
    ∧ (∀ k : Nat, k ≤ 1 → answered (.qnt tag [b8 k]) 0x66)

/-- What the queries report (R5, R15, R72, R82, R110, R126, R144, R154, R165, R173, R195, R203; R212). The codes and layouts that the
spec leaves open are log entries 14 to 22, 47 and 48, the model's inferences. -/
def Obligations.QueriesReportTheRecords : Prop :=
  (∀ (tag : Byte) (s : State), Ready s →
    (∀ m : MarkerId,
      exec (.qmk tag [b8 m.val, 1]) s = .next (s.replied 0x15 tag (Reply.okay <|
        halfBytes s.part.markers.time.toNat ++ halfBytes s.part.markers.holdOff
          ++ [1, b8 (holdOffCode (Table.at s.part.markers.markers m).state)]
          ++ optH ((Table.at s.part.markers.markers m).lastPulse.map BitVec.toNat)) s.part))
    ∧ (∀ d : DriverId, ∃ presence, exec (.qdr tag [b8 d.val]) s = .next (s.replied 0x29 tag (Reply.okay <|
        [signedB (Table.at s.part.drivers.handsets d).throttle, flagB (Table.at s.part.drivers.handsets d).horn,
         flagB (Table.at s.part.drivers.handsets d).halt, flagB (Table.at s.part.drivers.handsets d).aux] ++ presence
          ++ listB (fun c => [b8 c.val])
              (Table.numbers s.part.road.convoys fun v => v.state.formed && v.source = .driver d)
          ++ [b8 s.part.drivers.errors]) s.part)
        ∧ (∀ left, (Table.at s.part.drivers.handsets d).presence = .present left → presence = 0 :: halfBytes left)
        ∧ ((Table.at s.part.drivers.handsets d).presence = .lost → presence = [1, 0xFF, 0xFF]))
    ∧ (∃ wait, exec (.qck tag []) s = .next (s.replied 0x53 tag (Reply.okay <|
        [b8 s.part.clock.day, b8 s.part.clock.hour, b8 s.part.clock.minute, b8 s.part.clock.second]
          ++ halfBytes s.part.clock.fraction ++ [b8 s.part.clock.ratio, if s.part.clock.running then 0 else 1]
          ++ optH wait) s.part)
        ∧ (s.part.clock.running = false → wait = none)
        ∧ (s.part.clock.running = true → 1 ≤ s.part.clock.ratio → ∃ n, wait = some n
            ∧ (60 - s.part.clock.second) * 1000 ≤ s.part.clock.fraction + n * s.part.clock.ratio
            ∧ ∀ k, (60 - s.part.clock.second) * 1000 ≤ s.part.clock.fraction + k * s.part.clock.ratio → n ≤ k))
    ∧ (∀ e : DepartureId, exec (.qdp tag [b8 e.val]) s = .next (s.replied 0x55 tag (Reply.okay <|
        [flagB (Table.at s.part.departures e).enabled] ++ optB (Table.at s.part.departures e).day
          ++ optB (Table.at s.part.departures e).hour ++ optB (Table.at s.part.departures e).minute
          ++ [b8 (departureActionCode (Table.at s.part.departures e).action)]
          ++ optB ((Table.at s.part.departures e).convoy.map Fin.val)
          ++ [b8 (Table.at s.part.departures e).cruise, b8 (Table.at s.part.departures e).ramp,
              flagB (Table.at s.part.departures e).fired, b8 (Table.at s.part.departures e).missed]) s.part))
    ∧ (∃ code revision, exec (.qst tag []) s = .next (s.replied 0x60 tag (Reply.okay <|
        [code, revision, b8 (modeCode s.part.mode.mode), flagB s.part.mode.latch, b8 s.part.mode.slowLimit]
          ++ optB (s.part.mode.holdCell.map Fin.val)
          ++ [flagB s.part.mode.driverWake, b8 (resetCauseCode s.part.mode.cause), b8 (linkRateCode s.link.rate),
              b8 s.link.framingErrors, b8 s.link.checkErrors, b8 s.link.overruns, b8 s.part.drivers.errors]) s.part)))
  ∧ (∀ (i : SectionId) (tag : Byte) (s : State), Ready s →
    let v := s.part.road.sect i
    let reported := fun (body : List Byte) =>
      exec (.sqry tag [b8 i.val]) s = .next (s.replied 0x13 tag (Reply.okay body) s.part)
    (∀ d, v.defn = some d → reported
      ([b8 (sectionKindCode d.kind), b8 d.endA.val] ++ optB (d.endB.map Fin.val) ++ optB (d.allowed.map dirCode)
        ++ optB (d.junction.map fun j => j.line.val) ++ optH (d.junction.map fun j => j.settle)
        ++ [b8 d.patience, b8 (sectionStatusCode v.status)]
        ++ optB (match v.status with | .out k => some (outCauseCode k) | _ => none)
        ++ optB (match v.status with | .fault k _ => some (faultCauseCode k) | _ => none)
        ++ (match v.status.holding with
            | some h => [b8 h.convoy.val, b8 (dirCode h.dir), b8 h.entered, b8 h.exited]
                          ++ listB (fun e => b8 e.member :: halfBytes e.time.toNat) h.log
            | none => [0xFF, 0xFF, 0, 0, 0])
        ++ optB (v.earmark.map Fin.val) ++ [flagB v.settle.isSome] ++ listB (fun c => [b8 c.val]) v.queue))
    ∧ (v.defn = none → v.status = .undefined →
        reported (List.replicate 8 0xFF ++ [0] ++ List.replicate 9 0xFF ++ [0])))
  ∧ (∀ (c : ConvoyId) (tag : Byte) (s : State), Ready s →
    let v := s.part.road.convoy c
    let reported := fun (k : Byte) (body : List Byte) =>
      exec (.qcv tag [b8 c.val, k]) s = .next (s.replied 0x26 tag (Reply.okay body) s.part)
    let formed := fun (n : Nat) => optB (if v.state = .vacant then none else some n)
    let source := match v.source with | .host => [0, 0xFF] | .timetable => [1, 0xFF] | .driver d => [2, b8 d.val]
    reported 0
      ([b8 (convoyStateCode v.state)] ++ optB (match v.state with | .halted b => some (returnStateCode b) | _ => none)
        ++ [b8 v.priority] ++ source ++ [b8 v.hostSpeed, b8 v.cruise, b8 v.ramp] ++ halfBytes v.ttDemand ++ [b8 v.lag]
        ++ halfBytes v.gapMin ++ halfBytes v.gapMax ++ [b8 v.trimStep] ++ formed v.lead ++ formed v.tail ++ formed v.furthest
        ++ optB (v.asked.map Prod.fst) ++ optB (v.asked.map Prod.snd)
        ++ (match s.part.road.request c with
            | some q => halfBytes q.arrival ++ [b8 q.passed, flagB q.promoted]
            | none => [0xFF, 0xFF, 0xFF, 0xFF])
        ++ halfBytes v.halt.enabled.toNat ++ halfBytes v.halt.causes.toNat
        ++ [b8 (throttleActionCode v.halt.throttle), b8 (lightsActionCode v.halt.lights), b8 (restartModeCode v.halt.restart),
            flagB v.halt.rearm]
        ++ halfBytes (activeLevels s.part.cells s.part.drivers c s.part.road).toNat)
    ∧ reported 1 (listB (fun m => [b8 m.slot.val, b8 m.trailers, BitVec.ofInt 8 m.trim] ++ optH (m.lastGap.map BitVec.toNat))
        v.members)
    ∧ reported 2 (listB (fun t => [b8 t.sec.val, b8 (dirCode t.dir + 2 * branchCode t.branch + 8 * t.link.toNat
        + 16 * travelCode t.travel), b8 (stepStatusCode t.status)]) v.route)
    ∧ reported 3 (listB (fun n => [b8 n]) (v.history.take 40)) ∧ reported 4 (listB (fun n => [b8 n]) (v.history.drop 40)))
  ∧ (∀ (k : CellId) (tag : Byte) (s : State), Ready s →
    let p := s.part
    let c := Table.at p.cells k
    let term := fun (t : Term) => match t with | .ignored => 0 | .asRead => 1 | .inverted => 2
    exec (.qcl tag [b8 k.val]) s = .next (s.replied 0x39 tag (Reply.okay (
      [flagB c.enabled] ++ ((List.finRange 4).flatMap fun i =>
          [b8 (selectorCode (Table.at c.selectors i)).1, b8 (selectorCode (Table.at c.selectors i)).2])
        ++ ((List.finRange 4).flatMap fun i =>
          let g := Table.at c.gates i
          [b8 (term (Table.at g.terms 0) + 4 * term (Table.at g.terms 1) + 16 * term (Table.at g.terms 2)
            + 64 * term (Table.at g.terms 3)), flagB g.invert])
        ++ [b8 (cellFnCode c.fn), flagB c.invert] ++ halfBytes c.shotTime
        ++ [flagB c.riseNotice, flagB c.fallNotice, flagB c.latch] ++ halfBytes c.remaining
        ++ optB (c.last.map Bool.toNat) ++ [flagB c.reload, flagB c.output]
        ++ listB (fun c => [b8 c.val]) ((List.finRange 8).filter fun c => (p.road.convoy c).halt.enabled.getLsbD k.val)
        ++ listB (fun l => [b8 l.val]) ((List.finRange 16).filter fun l => (p.road.line l).function = .cell k)
        ++ listB (fun l => [b8 l.val])
            ((List.finRange 16).filter fun l => (p.road.line l).function = .flash ∧ (p.road.line l).flashGate = k)
        ++ [flagB (p.mode.holdCell = some k)])) p))
  ∧ (∀ (i : SlotId) (tag : Byte) (s : State), Ready s →
    let t := Table.at s.part.composer.slots i
    let settings := fun (w : SlotSettings) => optB w.address ++ halfBytes w.span ++ halfBytes w.brake ++ halfBytes w.deadFR
      ++ halfBytes w.deadRF
      ++ [b8 (w.reverse.throttle.toNat + 2 * w.reverse.coupler.toNat + 4 * w.reverse.lights.toNat + 8 * w.reverse.aux.toNat)]
    let channel := fun (c : Channel) => b8 (channelModeCode c.mode) :: halfBytes c.value
    ∃ stopped, exec (.qsl tag [b8 i.val]) s = .next (s.replied 0x44 tag (Reply.okay (
        settings t.settings ++ (match t.waiting with | some w => settings w | none => List.replicate 10 0xFF)
          ++ [flagB t.keyed]
          ++ (match t.onAir with | .offAir => [0, 0xFF] | .onAir => [1, 0xFF] | .rundown n => [2, b8 n])
          ++ channel t.channels.throttle ++ channel t.channels.coupler ++ channel t.channels.lights ++ channel t.channels.aux
          ++ [b8 (match t.direction with | none => 0 | some .forward => 1 | some .reverse => 2)] ++ stopped
          ++ (match s.part.road.placeOf i with | some (c, n) => [b8 c.val, b8 (n + 1)] | none => [0xFF, 0xFF])
          ++ (match t.onAir, t.sent with
              | .offAir, _ => halfBytes t.channels.throttle.value ++ halfBytes t.channels.coupler.value
                  ++ halfBytes t.channels.lights.value ++ halfBytes t.channels.aux.value ++ [1]
              | _, some v => halfBytes v.throttle ++ halfBytes v.coupler ++ halfBytes v.lights ++ halfBytes v.aux ++ [0]
              | _, none => List.replicate 8 0xFF ++ [0]))) s.part)
      ∧ (t.neutralSince = none → stopped = [0xFF, 0xFF])
      ∧ ∀ since, t.neutralSince = some since → s.part.composer.frameTime - since < 0xFFFF →
          stopped = halfBytes (s.part.composer.frameTime - since))
  ∧ (∀ (i : LineId) (tag : Byte) (s : State), Ready s →
    let l := s.part.road.line i
    ∃ namer, exec (.qln tag [b8 i.val]) s = .next (s.replied 0x4A tag (Reply.okay (
        [b8 (lineDirectionCode l.direction), b8 (driveCode l.drive), flagB l.data]
          ++ (match l.function with
              | .data => [0, 0xFF] | .junction => [1, 0xFF] | .cell k => [2, b8 k.val] | .flash => [3, 0xFF])
          ++ [flagB l.invert, flagB l.wake] ++ halfBytes l.flashPeriod ++ [b8 l.flashGate.val, flagB l.junction]
          ++ optB namer ++ [flagB (l.level s.part.parkHold s.part.cells)]
          ++ (match l.direction with | .output => [flagB (l.drivenValue s.part.cells)] | .input => [0xFF])
          ++ (match l.flash with | some f => [flagB f.phase] | none => [0xFF])
          ++ (match l.frozen with | some f => [1, b8 (pinCode f.pin)] | none => [0, 0xFF]))) s.part)
      ∧ (∀ k d j, (s.part.road.sect k).defn = some d → d.junction = some j → j.line = i →
          ∃ k', namer = some k'.val ∧ k' ≤ k ∧ ∃ d' j', (s.part.road.sect k').defn = some d' ∧ d'.junction = some j'
            ∧ j'.line = i)
      ∧ ((∀ k d j, (s.part.road.sect k).defn = some d → d.junction = some j → j.line ≠ i) → namer = none))
  ∧ ∀ (tag : Byte) (s : State), Ready s →
    let k := s.part.road.notices
    let reported := fun (n : Byte) (body : List Byte) =>
      exec (.qnt tag [n]) s = .next (s.replied 0x66 tag (Reply.okay body) s.part)
    (∃ pending enabled requested announced : Nat,
      reported 0 (mapB 3 pending ++ mapB 3 enabled ++ mapB 3 requested ++ mapB 3 announced
        ++ ((List.finRange 21).map fun i => b8 (Table.at k.sources i).priority) ++ [k.seq])
      ∧ (pending < 2 ^ 21 ∧ enabled < 2 ^ 21 ∧ requested < 2 ^ 21 ∧ announced < 2 ^ 21)
      ∧ ∀ i : SourceId, pending.testBit i.val = (Table.at k.sources i).pending
        ∧ enabled.testBit i.val = (Table.at k.sources i).enabled
        ∧ requested.testBit i.val = ((Table.at k.sources i).pending && (Table.at k.sources i).enabled)
        ∧ announced.testBit i.val = (Table.at k.sources i).announced)
    ∧ reported 1 ((List.finRange 21).flatMap fun i =>
        mapB (if i.val ≤ 3 then 0 else if i.val ≤ 5 then 8 else if i.val ≤ 19 then 1 else 3)
          (Table.at k.sources i).subjects.toNat)

/-! ## Chapter 1: sections and markers -/

/-- SDEF of a section in a state that allows it, with fields in order, an OUTPUT line of function JUNCTION that no other section
names, and nothing that uses the section: its definition is stored and an UNDEFINED section becomes OUT (R9, R10). What holds or
uses the section refuses it, and so does a field outside its values. That the body carries the kinds ONE_WAY, TWO_WAY and DOCK as
1, 2 and 3 is log entry 15, and that half a junction is refused log entry 28, the model's inferences. -/
def Obligations.SdefDefinesASection : Prop :=
  (∀ (i : SectionId) (d : SectionDef) (patience tag : Byte) (s : State), Ready s → d.sound →
    (patience = b8 d.patience ∨ (patience = 0xFF ∧ d.patience = 3)) →
    let v := s.part.road.sect i
    let refused := fun (st : Status) =>
      exec (.sdef tag (sdefBody i d patience)) s = .next (s.replied 0x10 tag { status := st, body := [] } s.part)
    let unused := v.queue = [] ∧ v.earmark = none
      ∧ ∀ c, (s.part.road.convoy c).state.formed = true → ∀ t ∈ (s.part.road.convoy c).route, t.sec ≠ i
    let lineFits := ∀ j, d.junction = some j →
      (s.part.road.line j.line).direction = .output ∧ (s.part.road.line j.line).function = .junction
    let lineFree := ∀ j, d.junction = some j → ∀ k d', k ≠ i → (s.part.road.sect k).defn = some d' →
      ∀ j', d'.junction = some j' → j'.line ≠ j.line
    ((v.status = .undefined ∨ v.status = .free ∨ ∃ k, v.status = .out k) → lineFits →
      (unused → lineFree →
        exec (.sdef tag (sdefBody i d patience)) s
          = .next (s.replied 0x10 tag okReply { s.part with
              road := s.part.road.setSect i { v with
                defn := some d, status := match v.status with | .undefined => .out .host | st => st } }))
      ∧ (¬ unused ∨ ¬ lineFree → refused .inUse))
    ∧ ((∃ h, v.status = .granted h ∨ v.status = .occupied h) ∨ (∃ k h, v.status = .fault k h) → refused .badState)
    ∧ ((v.status = .undefined ∨ v.status = .free ∨ ∃ k, v.status = .out k) → ¬ lineFits → refused .badVal))
  ∧ ∀ (i : SectionId) (kind endA endB allowed line hi lo patience tag : Byte) (s : State), Ready s →
    let v := s.part.road.sect i
    let settle := hi.toNat * 256 + lo.toNat
    let inOrder := 1 ≤ kind.toNat ∧ kind.toNat ≤ 3 ∧ endA.toNat < 96
      ∧ (if kind = 3 then endB = 0xFF else endB.toNat < 96 ∧ endB ≠ endA)
      ∧ (if kind = 1 then allowed.toNat ≤ 1 else allowed = 0xFF)
      ∧ (patience = 0xFF ∨ (1 ≤ patience.toNat ∧ patience.toNat ≤ 7))
      ∧ ((line = 0xFF ∧ settle = 0xFFFF) ∨ (line.toNat < 16 ∧ settle ≤ 2000 ∧ settle % 100 = 0))
    (v.status = .undefined ∨ v.status = .free ∨ ∃ k, v.status = .out k) → ¬ inOrder →
      exec (.sdef tag [b8 i.val, kind, endA, endB, allowed, line, hi, lo, patience]) s
        = .next (s.replied 0x10 tag { status := .badVal, body := [] } s.part)

/-- SOUT (R11, R12, R44, R69, R70): a section without a holder becomes OUT; a held one only by force, and then its convoy suffers
the loss: at or below the lead its step is LOST, above the lead the request is withdrawn, the held steps above the lead are handed
back, and a convoy that was to move asks again or runs. SECTION_LOST then joins the causes of a convoy that enables it. When the
hand-back of a loss settles what is left of a group is SettleTimersEnd's (log entry 43). -/
def Obligations.SoutTakesASectionOut : Prop :=
  (∀ (i : SectionId) (force : Bool) (tag : Byte) (s : State), Ready s →
    let v := s.part.road.sect i
    let out := s.part.road.setSect i { v with status := .out .host, earmark := none }
    let c := Instr.sout tag [b8 i.val, if force then 1 else 0]
    (v.status ≠ .undefined → v.status.holding = none →
      ∃ r, exec c s = .next (s.replied 0x11 tag okReply { s.part with road := r })
        ∧ r = reviewHalts s.part.cells s.part.drivers (if v.earmark.isSome then arbitrate out else out)
        ∧ Road.Kept out r ∧ (r.sect i).status = .out .host
        ∧ (v.earmark = none → AllClear { s.part with road := out } → r = out))
    ∧ (∀ h, v.status.holding = some h → force = true →
      ∃ r, exec c s = .next (s.replied 0x11 tag okReply { s.part with road := r })
        ∧ r = reviewHalts s.part.cells s.part.drivers
            (joinCauses h.convoy (BitVec.twoPow 13 11) (forcedLoss h.convoy i (leaveHolder [i] out)))
        ∧ Road.HandedBack out r ∧ (r.sect i).status = .out .host)
    ∧ (v.status.holding.isSome = true → force = false →
        exec c s = .next (s.replied 0x11 tag { status := .inUse, body := [] } s.part))
    ∧ (v.status = .undefined → exec c s = .next (s.replied 0x11 tag { status := .badState, body := [] } s.part)))
  ∧ ∀ (c : ConvoyId) (i : SectionId) (r : Road),
    let v := r.convoy c
    let marked := fun (j : Nat) (st : StepStatus) (w : Convoy) =>
      ({ w with route := w.route.mapIdx fun n t => if n = j then { t with status := st } else t } : Convoy).reindex
    let holds := fun (j : Nat) => ∃ t, v.route[j]? = some t ∧ t.sec = i ∧ (t.status = .settling ∨ t.status = .held)
    ((∀ j, ¬ holds j) → forcedLoss c i r = r)
    ∧ ∀ j, holds j → (∀ k < j, ¬ holds k) →
      (j ≤ v.lead → forcedLoss c i r = r.setConvoy c (marked j .lost v))
      ∧ (v.lead < j →
        let w := withdrawAsked c r
        let back := handBack c (w.setConvoy c (marked j .ahead (w.convoy c)))
        let x := back.convoy c
        let based := fun (b : BaseState) => back.setConvoy c { x with state := x.state.mapBase fun _ => b }
        let moves := x.state.base? = some .waiting ∨ x.state.base? = some .running
        let next := x.route[x.lead + 1]?.map RouteStep.status
        (¬ moves → forcedLoss c i r = back)
        ∧ (moves → next = some .ahead → forcedLoss c i r = ask c (x.lead + 1) (based .waiting))
        ∧ (moves → next = none ∨ next = some .held → forcedLoss c i r = based .running)
        ∧ (moves → (∃ st, next = some st ∧ st ≠ .ahead ∧ st ≠ .held) → forcedLoss c i r = based .waiting))

/-- SRST (R13, R14, R67, R68): a section that is OUT, or in FAULT without a holder, becomes FREE and a pass runs; one in FAULT with
a holder takes the given counts. Where every member has left it, it becomes FREE, the engine takes a release (the last conjuncts of
BoardReportsMoveTheMarkers say what that does), and a pass runs; else it is held again, and the engine takes a restoration. That the
release is reported before the pass is log entry 31, the model's choice of an order. -/
def Obligations.SrstRestoresASection : Prop :=
  (∀ (i : SectionId) (entered exited : Byte) (tag : Byte) (s : State), Ready s →
    let v := s.part.road.sect i
    let freed := s.part.road.setSect i { v with status := .free }
    let c := Instr.srst tag [b8 i.val, entered, exited]
    let reviewed := reviewHalts s.part.cells s.part.drivers
    ((∃ k, v.status = .out k) ∨ (∃ k, v.status = .fault k none) →
      ∃ r, exec c s = .next (s.replied 0x12 tag okReply { s.part with road := r })
        ∧ Road.Kept freed r ∧ r = reviewed (arbitrate freed)
        ∧ (NoRequests s.part.road → AllClear { s.part with road := freed } → r = freed))
    ∧ (∀ k h, v.status = .fault k (some h) →
        let w := s.part.road.convoy h.convoy
        let counted := { h with entered := entered.toNat, exited := exited.toNat, log := [] }
        let again := s.part.road.setSect i
          { v with status := if entered.toNat = 0 then .granted counted else .occupied counted }
        (entered.toNat < exited.toNat ∨ w.memberCount < entered.toNat →
          exec c s = .next (s.replied 0x12 tag { status := .badVal, body := [] } s.part))
        ∧ (exited.toNat ≤ entered.toNat → entered.toNat ≤ w.memberCount → exited.toNat = w.memberCount →
            ∃ r, exec c s = .next (s.replied 0x12 tag okReply { s.part with road := r })
              ∧ Road.Kept freed r
              ∧ r = reviewed (arbitrate (releaseReport h.convoy i (leaveHolder [i] freed)))
              ∧ (∀ (n : Nat) t, w.route[n]? = some t → t.sec = i → (t.status = .settling ∨ t.status = .held) →
                  (∀ j < n, ∀ u, w.route[j]? = some u → u.sec = i → u.status ≠ .settling ∧ u.status ≠ .held) →
                  (∃ j u, j ≤ w.lead ∧ j ≠ n ∧ w.route[j]? = some u ∧ (u.status = .settling ∨ u.status = .held)) →
                  NoRequests s.part.road → s.part.road.settling = [] → v.settle = none →
                  AllClear { s.part with road := freed } →
                    r = freed.setConvoy h.convoy ({ w with route := w.route.mapIdx fun k u =>
                      if k = n then { u with status := .done } else u } : Convoy).reindex))
        ∧ (exited.toNat ≤ entered.toNat → entered.toNat ≤ w.memberCount → exited.toNat ≠ w.memberCount →
            ∃ r, exec c s = .next (s.replied 0x12 tag okReply { s.part with road := r })
              ∧ Road.Kept again r ∧ (r.sect i).status = (again.sect i).status
              ∧ r = reviewed (restorationReport h.convoy i entered.toNat again)))
    ∧ (v.status = .undefined ∨ v.status = .free ∨ (∃ h, v.status = .granted h) ∨ (∃ h, v.status = .occupied h) →
        exec c s = .next (s.replied 0x12 tag { status := .badState, body := [] } s.part)))
  ∧ ∀ (c : ConvoyId) (i : SectionId) (entered : Nat) (r : Road),
    let v := r.convoy c
    let holds := fun (j : Nat) => ∃ t, v.route[j]? = some t ∧ t.sec = i ∧ (t.status = .settling ∨ t.status = .held)
    ((∀ j, ¬ holds j) → restorationReport c i entered r = r)
    ∧ ∀ j, holds j → (∀ k < j, ¬ holds k) →
      restorationReport c i entered r = arrivalTestAt c j
        (if 1 ≤ entered ∧ v.lead < j then leadChecks c (r.setConvoy c ({ v with lead := j } : Convoy).reindex) else r)

/-- SMK, HOLD_OFF_EXPIRY and MARKER_TIME_TICK (R2, R3, R4). That HOLD_OFF_EXPIRY of a marker that is not SETTLING, or has not
waited, changes nothing is log entry 8, and that a wait is taken modulo 65536 units log entry 13, both the model's choices. -/
def Obligations.MarkersWaitTheHoldOff : Prop :=
  (∀ (ms : Nat) (tag : Byte) (s : State), Ready s → ms < 65536 →
    let now := s.part.markers.time
    let waited := fun (m : Marker) => m.since.any fun t => ms / 10 ≤ (now - t).toNat
    (20 ≤ ms → ms ≤ 500 → ms % 10 = 0 →
      ∃ k, exec (.smk tag [b8 (ms / 256), b8 ms]) s = .next (s.replied 0x14 tag okReply { s.part with markers := k })
        ∧ k.holdOff = ms ∧ k.time = now
        ∧ ∀ m, Table.at k.markers m = { Table.at s.part.markers.markers m with
            state :=
              let old := Table.at s.part.markers.markers m
              if old.state = .settling ∧ waited old then .armed
              else if old.state = .armed ∧ waited old = false then .settling else old.state })
    ∧ (ms < 20 ∨ 500 < ms ∨ ms % 10 ≠ 0 →
        exec (.smk tag [b8 (ms / 256), b8 ms]) s = .next (s.replied 0x14 tag { status := .badVal, body := [] } s.part)))
  ∧ (∀ (m : MarkerId) (s : State), s.resets.held = false →
      let old := Table.at s.part.markers.markers m
      exec (.holdOffExpiry m) s
        = .next { s with part := { s.part with markers := { s.part.markers with
            markers := Table.put s.part.markers.markers m
              (if old.state = .settling
                  ∧ (old.since.any fun t => s.part.markers.holdOff / 10 ≤ (s.part.markers.time - t).toNat) = true
               then { old with state := .armed } else old) } } })
  ∧ (∀ s : State, s.resets.held = false →
      exec .markerTimeTick s
        = .next { s with part := { s.part with markers := { s.part.markers with time := s.part.markers.time + 1 } } })

/-- A board report (R1, R3, R6): no effect for an unknown board or for levels as stored; the one level that differs is a
transition, and a pulse where the marker has been inactive for the hold-off time. A pulse, after every section has taken it, tells
the notices and, section by section, the convoy engine, and offers what it freed to the arbiter (R20); the engine moves the lead
(R64), tests the arrival (R66), which withdraws what is still asked for (log entry 44), checks the gap (R89, R90), or takes the release (R67; log entry 45). A LOST step after
the lead cannot arise (log entry 35). That a second success of the arrival test raises CONVOY_ARRIVED again is log entry 33, and that
a notice starts at the end of the report log entry 4, the model's choices. A report is the eight levels of its board taken one after
another in ascending marker number (R1), each with the markers and the road as the one before has left them. -/
def Obligations.BoardReportsMoveTheMarkers : Prop :=
  (∀ (board levels : Byte) (s : State), Quiet s →
    (∃ k r, exec (.boardReport board levels) s
        = .next (transmit { s with part := { s.part with markers := k, road := r } }))
    ∧ (12 ≤ board.toNat → exec (.boardReport board levels) s = .next (transmit s))
    ∧ (∀ (m : MarkerId) (k : Fin 8), m.val = 8 * board.toNat + k.val →
        (∀ (n : MarkerId) (j : Fin 8), n.val = 8 * board.toNat + j.val → n ≠ m →
          (Table.at s.part.markers.markers n).level? = some (levels.getLsbD j.val)) →
        let old := Table.at s.part.markers.markers m
        let pulse := old.state = .armed
          ∨ (old.state = .settling
              ∧ (old.since.any fun t => s.part.markers.holdOff / 10 ≤ (s.part.markers.time - t).toNat) = true)
        let put := fun (new : Marker) (r : Road) =>
          Host.Outcome.next (transmit { s with part := { s.part with
            markers := { s.part.markers with markers := Table.put s.part.markers.markers m new }, road := r } })
        (old.level? = some (levels.getLsbD k.val) → exec (.boardReport board levels) s = .next (transmit s))
        ∧ (levels.getLsbD k.val = false → old.level? ≠ some false →
            exec (.boardReport board levels) s
              = put { old with state := .settling, since := some s.part.markers.time } s.part.road)
        ∧ (levels.getLsbD k.val = true → old.level? ≠ some true → ¬ pulse →
            exec (.boardReport board levels) s = put { old with state := .active, since := none } s.part.road)
        ∧ (levels.getLsbD k.val = true → pulse →
            ∃ r, exec (.boardReport board levels) s
                = put { state := .active, since := none, lastPulse := some s.part.markers.time } r
              ∧ r = reviewHalts s.part.cells s.part.drivers (roadPulse m s.part.markers.time s.part.road)
              ∧ (∀ i, Section.Kept (Table.at (s.part.road.pulsed m s.part.markers.time) i) (r.sect i))
              ∧ ∀ c, Convoy.Kept (s.part.road.convoy c) (r.convoy c))))
  ∧ (∀ (board levels : Byte) (ms : Fin 8 → MarkerId) (s : State), Quiet s → (∀ k, (ms k).val = 8 * board.toNat + k.val) →
    let reported := (List.finRange 8).foldl (fun p k => markerLevel (ms k) (levels.getLsbD k.val) p) s.part
    exec (.boardReport board levels) s = .next (transmit { s with part := reported }))
  ∧ (∀ (m : MarkerId) (level : Bool) (p : Part),
    let old := Table.at p.markers.markers m
    let pulse := old.state = .armed
      ∨ (old.state = .settling ∧ (old.since.any fun t => p.markers.holdOff / 10 ≤ (p.markers.time - t).toNat) = true)
    let put := fun (new : Marker) (r : Road) =>
      { p with markers := { p.markers with markers := Table.put p.markers.markers m new }, road := r }
    (old.level? = some level → markerLevel m level p = p)
    ∧ (level = false → old.level? ≠ some false →
        markerLevel m level p = put { old with state := .settling, since := some p.markers.time } p.road)
    ∧ (level = true → old.level? ≠ some true → ¬ pulse →
        markerLevel m level p = put { old with state := .active, since := none } p.road)
    ∧ (level = true → pulse →
        markerLevel m level p = put { state := .active, since := none, lastPulse := some p.markers.time }
          (reviewHalts p.cells p.drivers (roadPulse m p.markers.time p.road))))
  ∧ (∀ (m : MarkerId) (time : Half) (r : Road),
    let after := fun (i : SectionId) => (Table.at (r.pulsed m time) i).status
    let which := fun (f : SectionStatus → SectionStatus → Bool) =>
      (List.finRange 64).filter fun i => f (r.sect i).status (after i)
    let faults := which fun old new => new.isFault && !old.isFault
    let strays := which fun old new => decide (new = .fault .stray none) && !old.isFault
    let released := which fun old new => decide (old ≠ .free) && decide (new = .free)
    let told := Road.raiseAll srcStrayPulse (strays.map Fin.val) (Road.raiseAll srcSectionFault (faults.map Fin.val)
      (leaveHolder released { r with sections := r.pulsed m time }))
    let reported := (List.finRange 64).foldl (fun (x : Road) (i : SectionId) =>
      match (r.sect i).status.holding with
      | none => x
      | some h =>
        if after i = .occupied { h with entered := h.entered + 1,
                                        log := h.log ++ [{ member := h.entered + 1, time := time }] }
        then entryReport (r.convoy h.convoy) h.convoy i (h.entered + 1) time x
        else if after i = .free then releaseReport h.convoy i x else x) told
    roadPulse m time r
      = if released = [] ∧ ∀ i ∈ strays, (r.sect i).earmark = none then reported else arbitrate reported)
  ∧ (∀ (src : SourceId) (ks : List Nat) (r : Road),
    let n := Table.at r.notices.sources src
    let n' := Table.at (r.raiseAll src ks).notices.sources src
    (ks = [] → r.raiseAll src ks = r)
    ∧ (ks ≠ [] → n'.pending = true ∧ (∀ b, n'.subjects.getLsbD b = (n.subjects.getLsbD b || decide (b < 64 ∧ b ∈ ks))))
    ∧ n' = { n with pending := n'.pending, subjects := n'.subjects }
    ∧ r.raiseAll src ks = { r with notices := { r.notices with sources := Table.put r.notices.sources src n' } })
  ∧ (∀ (before : Convoy) (c : ConvoyId) (i : SectionId) (member : Nat) (time : Half) (r : Road),
    let v := r.convoy c
    let holds := fun (j : Nat) => ∃ t, v.route[j]? = some t ∧ t.sec = i ∧ (t.status = .settling ∨ t.status = .held)
    let entered := fun (k : Nat) (h : Holding) => (h.log.find? fun e => decide (e.member = k)).map LogEntry.time
    let next := v.route[v.lead + 1]?.map RouteStep.status
    let moves := v.state.base? = some .waiting ∨ v.state.base? = some .running
    let stopped := r.setConvoy c { v with state := v.state.mapBase fun b => if b = .running then .waiting else b }
    let ends := ∃ t h, v.route[v.route.length - 1]? = some t ∧ (r.sect t.sec).status.holding = some h
      ∧ h.convoy = c ∧ h.entered = v.members.length
    ((∀ j, ¬ holds j) → entryReport before c i member time r = r ∧ releaseReport c i r = r)
    ∧ (∀ j, holds j → (∀ k < j, ¬ holds k) →
        let w := ({ v with route := v.route.mapIdx fun n t => if n = j then { t with status := .done } else t } : Convoy).reindex
        let held := fun (n : Nat) => ∃ t, w.route[n]? = some t ∧ (t.status = .settling ∨ t.status = .held)
        entryReport before c i member time r = arrivalTestAt c j
            (if member = 1 then
              if v.lead < j then leadChecks c (r.setConvoy c ({ v with lead := j } : Convoy).reindex) else r
             else gapCheck before c i member time r)
        ∧ ((∃ n ≤ w.lead, held n) ∨ (∀ n, ¬ held n) → releaseReport c i r = r.setConvoy c w)
        ∧ ∀ n, held n → w.lead < n → (∀ k < n, ¬ held k) →
            releaseReport c i r = arrivalTestAt c n (leadChecks c (r.setConvoy c ({ w with lead := n } : Convoy).reindex)))
    ∧ (next = none ∨ next = some .held → leadChecks c r = r)
    ∧ (next = some .ahead → moves → leadChecks c r = ask c (v.lead + 1) stopped)
    ∧ (next = some .ahead → ¬ moves → leadChecks c r = r)
    ∧ ((∃ st, next = some st ∧ st ≠ .held ∧ st ≠ .ahead) → leadChecks c r = stopped)
    ∧ (∀ k, arrivalTestAt c k r = if k + 1 = v.route.length then arrivalTest c r else r)
    ∧ (ends →
        let w := withdrawAsked c r
        arrivalTest c r = Road.raiseAll srcConvoyArrived [c.val]
          (w.setConvoy c { w.convoy c with state := (w.convoy c).state.mapBase fun _ => .arrived })
        ∧ (arrivalTest c r).request c = none ∧ ((arrivalTest c r).convoy c).asked = none
        ∧ ((arrivalTest c r).convoy c).state = (v.state.mapBase fun _ => .arrived)
        ∧ (v.asked = none → r.request c = none → w = r))
    ∧ (¬ ends → arrivalTest c r = r)
    ∧ (∀ h t, before.state = .plain .running → before.halt.rearm = false → 2 ≤ member →
        (r.sect i).status.holding = some h → entered (member - 1) h = some t →
        let gap := (time - t).toNat
        gapCheck before c i member time r = r.setConvoy c { v with members := v.members.mapIdx fun n x =>
          if n + 1 = member then { x with
            lastGap := some time,
            trim := max (-8) (min 8 (x.trim + if gap < v.gapMin then -1 else if v.gapMax < gap then 1 else 0)) } else x })
    ∧ (before.state ≠ .plain .running ∨ before.halt.rearm = true ∨ member < 2 ∨ (r.sect i).status.holding = none
          ∨ (∃ h, (r.sect i).status.holding = some h ∧ entered (member - 1) h = none) →
        gapCheck before c i member time r = r))

/-- The counts after a pulse (R16 to R19): at the entry end a member is counted in, at the exit end one is counted out, the last
one out frees the section, a count too many or too few is a fault, and a pulse no held section takes is a stray in every FREE
section that names the marker. -/
def Obligations.PulsesCountThePassage : Prop :=
  ∀ (r : Road) (m : MarkerId) (time : Half) (i : SectionId),
    let v := r.sect i
    let after := Table.at (r.pulsed m time) i
    let takes := fun (v : Section) => ∃ h d, (v.status = .granted h ∨ v.status = .occupied h) ∧ v.defn = some d
      ∧ (d.entryMarker h.dir = some m ∨ d.exitMarker h.dir = some m)
    (∀ h d, (v.status = .granted h ∨ v.status = .occupied h) → v.defn = some d →
      (d.entryMarker h.dir = some m →
        (h.entered < (r.convoy h.convoy).memberCount →
          after = { v with status := .occupied { h with
            entered := h.entered + 1, log := h.log ++ [{ member := h.entered + 1, time := time }] } })
        ∧ ((r.convoy h.convoy).memberCount ≤ h.entered → after = { v with status := .fault .countOver (some h) }))
      ∧ (d.entryMarker h.dir ≠ some m → d.exitMarker h.dir = some m →
          (h.exited < h.entered → h.exited + 1 = (r.convoy h.convoy).memberCount → after = { v with status := .free })
          ∧ (h.exited < h.entered → h.exited + 1 ≠ (r.convoy h.convoy).memberCount →
              let h' := { h with exited := h.exited + 1 }
              after = { v with status := if v.status = .granted h then .granted h' else .occupied h' })
          ∧ (h.entered ≤ h.exited → after = { v with status := .fault .countUnder (some h) }))
      ∧ (d.entryMarker h.dir ≠ some m → d.exitMarker h.dir ≠ some m → after = v))
    ∧ (∀ d, v.status = .free → v.defn = some d →
        (d.names m = true → (∀ j, ¬ takes (r.sect j)) →
          after = { v with status := .fault .stray none, earmark := none })
        ∧ (d.names m = false ∨ (∃ j, takes (r.sect j)) → after = v))
    ∧ (v.status = .undefined ∨ (∃ k, v.status = .out k) ∨ (∃ k h, v.status = .fault k h) → after = v)

/-- The end of a settle timer and the cancelled ones (R38, R39, R43, R63): a group is settled when no timer of its record runs any
more, and then its SETTLING steps become HELD and a WAITING convoy may run; a record that loses its last section goes without a
report, and one in which a timer still runs is only reduced. That this is so in the repair of a forced loss too is log entry 43, that
an expiry of a stopped timer changes nothing log entry 8, and that a notice starts at the end of the event log entry 4, the model's
choices. -/
def Obligations.SettleTimersEnd : Prop :=
  let settled := fun (v : Convoy) (t : SettlingRecord) =>
    let w := ({ v with route := v.route.mapIdx fun n u =>
      if t.first ≤ n ∧ n ≤ t.last ∧ u.status = .settling then { u with status := .held } else u } : Convoy).reindex
    if (w.route[w.lead + 1]?).all fun u => u.status = .held then
      { w with state := w.state.mapBase fun b => if b = .waiting then .running else b } else w
  (∀ (i : SectionId) (s : State), Quiet s →
    let road := s.part.road
    let runs := fun (t : SettlingRecord) => t.sections.any fun j => decide (j ≠ i) && (road.sect j).settle.isSome
    ((road.sect i).settle = none → exec (.settleTimerExpiry i) s = .next (transmit s))
    ∧ ((road.sect i).settle.isSome = true →
        ∃ r, exec (.settleTimerExpiry i) s = .next (transmit { s with part := { s.part with road := r } })
          ∧ r.sections = (road.setSect i { road.sect i with settle := none }).sections
          ∧ r.settling = road.settling.filter runs
          ∧ (∀ c, r.convoy c = (road.settling.filter fun t => decide (t.convoy = c) && decide (t.sections ≠ []) && !runs t).foldl
              settled (road.convoy c))
          ∧ r = { road with sections := r.sections, settling := r.settling, convoys := r.convoys }))
  ∧ ∀ (secs : List SectionId) (r : Road),
    let reduced := r.settling.map fun t => { t with sections := t.sections.filter fun j => decide (j ∉ secs) }
    let runs := fun (t : SettlingRecord) => t.sections.any fun j => (r.sect j).settle.isSome
    let r' := leaveHolder secs r
    (∀ j, r'.sect j = if j ∈ secs then { r.sect j with settle := none } else r.sect j)
    ∧ r'.settling = reduced.filter runs
    ∧ (∀ c, r'.convoy c = (reduced.filter fun t => decide (t.convoy = c) && decide (t.sections ≠ []) && !runs t).foldl
        settled (r.convoy c))
    ∧ r' = { r with sections := r'.sections, settling := r'.settling, convoys := r'.convoys }

/-! ## Chapter 2: the grant arbiter -/

/-- The arbitration pass (R27 to R30): a request is grantable where every section of its group is FREE and carries no earmark but
its convoy's own, or one whose promoted request waits for a section the convoy holds. Of the grantable requests a promoted one goes
first, then the higher priority, then the earlier arrival. A pass places the earmarks, grants the chosen request, promotes, and
goes on until no request is grantable. -/
def Obligations.TheArbiterChoosesTheFirst : Prop :=
  (∀ (r : Road),
    (∀ c q, r.choice = some (c, q) →
      r.request c = some q ∧ r.grantable c q = true
        ∧ ∀ c' q', r.request c' = some q' → r.grantable c' q' = true →
            (q'.promoted = true → q.promoted = true)
            ∧ (q'.promoted = q.promoted →
                (r.convoy c').priority ≤ (r.convoy c).priority
                ∧ ((r.convoy c').priority = (r.convoy c).priority → q.arrival ≤ q'.arrival)))
    ∧ (r.choice = none ↔ ∀ c q, r.request c = some q → r.grantable c q = false))
  ∧ (∀ (c : ConvoyId) (q : GroupRequest) (r : Road),
    r.grantable c q = true ↔ ∀ l ∈ q.legs, (r.sect l.sec).status = .free
      ∧ ∀ x, (r.sect l.sec).earmark = some x → x = c
          ∨ ∃ p, r.request x = some p ∧ p.promoted = true
              ∧ ∃ l' ∈ p.legs, ∃ h, (r.sect l'.sec).status.holding = some h ∧ h.convoy = c)
  ∧ ∀ r : Road,
    let marked := placeEarmarks r
    (marked.choice = none → arbitrate r = marked)
    ∧ (∀ c q, marked.choice = some (c, q) → arbitrate r = arbitrate (promote (passOver q (grant c q marked))))
    ∧ (arbitrate r).choice = none

/-- R35 to R37: a grant gives the whole group to the convoy, sets the junction values of its branches, and starts the settle timers
of the points that move. Its grant report makes the REQUESTED steps SETTLING and ends the convoy's asking (R62); where no timer runs
the settled report follows at once, makes them HELD and lets a WAITING convoy run (R63). With every change of its steps the tail and
the furthest held index of a convoy are formed anew (R51). -/
def Obligations.AGrantTakesTheWholeGroup : Prop :=
  ∀ (c : ConvoyId) (q : GroupRequest) (r : Road), (q.legs.map Leg.sec).Nodup →
    (∀ l ∈ q.legs, ∀ l' ∈ q.legs, l.sec ≠ l'.sec → ∀ d d' j j',
      (r.sect l.sec).defn = some d → (r.sect l'.sec).defn = some d' → d.junction = some j → d'.junction = some j' →
        j.line ≠ j'.line) →
    let r' := grant c q r
    (∀ l ∈ q.legs,
      (r'.sect l.sec).status = .granted { convoy := c, dir := l.dir, entered := 0, exited := 0, log := [] }
      ∧ (r'.sect l.sec).earmark = none ∧ c ∉ (r'.sect l.sec).queue ∧ (r'.sect l.sec).defn = (r.sect l.sec).defn
      ∧ (∀ d j, (r.sect l.sec).defn = some d → d.junction = some j →
          let moves := l.branch ≠ .plain ∧ (r.line j.line).junction ≠ decide (l.branch = .turn)
          (r'.line j.line).junction = (if l.branch = .plain then (r.line j.line).junction else decide (l.branch = .turn))
          ∧ (r'.sect l.sec).settle = (if moves ∧ j.settle ≠ 0 then some j.settle else (r.sect l.sec).settle)))
    ∧ (∀ i, i ∉ q.legs.map Leg.sec → r'.sect i = r.sect i)
    ∧ r'.request c = none ∧ (∀ k, k ≠ c → r'.request k = r.request k) ∧ c ∉ r'.promotions
    ∧ (∀ k, k ≠ c → r'.convoy k = r.convoy k) ∧ Convoy.Kept (r.convoy c) (r'.convoy c)
    ∧ ((∀ l ∈ q.legs, (r'.sect l.sec).settle = none) → r'.settling = r.settling)
    ∧ ((∃ l ∈ q.legs, (r'.sect l.sec).settle.isSome = true) →
        r'.settling = r.settling ++ [{ convoy := c, first := q.first, last := q.last, sections := q.legs.map Leg.sec }])
    ∧ (let last := q.first + q.legs.length - 1
       let restated := fun (a b : StepStatus) (w : Convoy) => ({ w with route := w.route.mapIdx fun n t =>
         if q.first ≤ n ∧ n ≤ last ∧ t.status = a then { t with status := b } else t } : Convoy).reindex
       let granted := { restated .requested .settling (r.convoy c) with asked := none }
       let held := restated .settling .held granted
       ((∃ l ∈ q.legs, (r'.sect l.sec).settle.isSome = true) → r'.convoy c = granted)
       ∧ ((∀ l ∈ q.legs, (r'.sect l.sec).settle = none) → r'.convoy c =
           if (held.route[held.lead + 1]?).all fun t => t.status = .held then
             { held with state := held.state.mapBase fun b => if b = .waiting then .running else b } else held)
       ∧ ∀ t, q.legs ≠ [] → (r.convoy c).route[last]? = some t → t.status = .requested →
           (∀ n u, last < n → (r.convoy c).route[n]? = some u → u.status ≠ .settling ∧ u.status ≠ .held) →
             (r'.convoy c).furthest = last)
    ∧ ∀ v : Convoy,
      let holds := fun (n : Nat) => ∃ t, v.route[n]? = some t ∧ (t.status = .settling ∨ t.status = .held)
      v.reindex = { v with tail := v.reindex.tail, furthest := v.reindex.furthest }
      ∧ ((∀ n ≤ v.lead, ¬ holds n) → v.reindex.tail = v.lead)
      ∧ (∀ n ≤ v.lead, holds n → (∀ k < n, ¬ holds k) → v.reindex.tail = n)
      ∧ ((∀ n, ¬ holds n) → v.reindex.furthest = v.lead)
      ∧ ∀ n, holds n → (∀ k, n < k → ¬ holds k) → v.reindex.furthest = n

/-- R31 to R33: an earlier request that shares a section with the granted one has been passed over once more, and a request that
reaches its patience is promoted, several at once in order of their arrival. A FREE section without an earmark is earmarked for
the first convoy of the promotion list that waits in its queue; an earmark once placed stays. Passing over changes the requests
alone, and of the notices a promotion raises GRANT_PROMOTED alone, with the promoted convoys as its subjects. -/
def Obligations.PassedOverRequestsArePromoted : Prop :=
  (∀ (g : GroupRequest) (r : Road) (c : ConvoyId) (q : GroupRequest), r.request c = some q →
    (passOver g r).request c = some (if q.arrival < g.arrival ∧ ∃ l ∈ q.legs, ∃ l' ∈ g.legs, l.sec = l'.sec
                                     then { q with passed := min 7 (q.passed + 1) } else q)
    ∧ (promote r).request c = some { q with promoted := q.promoted || decide (r.leastPatience q ≤ q.passed) }
    ∧ (q.promoted = false → r.leastPatience q ≤ q.passed →
        c ∈ (promote r).promotions
        ∧ (Table.at (promote r).notices.sources srcGrantPromoted).pending = true
        ∧ (Table.at (promote r).notices.sources srcGrantPromoted).subjects.getLsbD c.val = true)
    ∧ (∀ d, (∀ l ∈ q.legs, ∃ x, (r.sect l.sec).defn = some x ∧ d ≤ x.patience) → d ≤ 7 → d ≤ r.leastPatience q)
    ∧ (∀ l ∈ q.legs, ∀ x, (r.sect l.sec).defn = some x → r.leastPatience q ≤ x.patience))
  ∧ ∀ r : Road,
    let earmarked := fun (promotions : List ConvoyId) (v : Section) => { v with
      earmark := if v.earmark = none ∧ v.status = .free then promotions.find? fun c => decide (c ∈ v.queue) else v.earmark }
    (∀ g, passOver g r = { r with requests := (passOver g r).requests } ∧ ∀ c, r.request c = none → (passOver g r).request c = none)
    ∧ (∀ c, r.request c = none → (promote r).request c = none)
    ∧ (∀ i, (placeEarmarks r).sect i = earmarked r.promotions (r.sect i))
    ∧ placeEarmarks r = { r with sections := (placeEarmarks r).sections }
    ∧ (∃ due : List (ConvoyId × GroupRequest), (promote r).promotions = r.promotions ++ due.map Prod.fst
        ∧ (∀ c q, (c, q) ∈ due ↔ r.request c = some q ∧ q.promoted = false ∧ r.leastPatience q ≤ q.passed)
        ∧ (due.Pairwise fun a b => a.2.arrival ≤ b.2.arrival)
        ∧ (promote r).notices.seq = r.notices.seq
        ∧ ∀ src,
          let n := Table.at r.notices.sources src
          let n' := Table.at (promote r).notices.sources src
          (src ≠ srcGrantPromoted → n' = n)
          ∧ (src = srcGrantPromoted →
              n' = { n with pending := n.pending || decide (due ≠ []), subjects := n'.subjects }
              ∧ ∀ b : Nat, n'.subjects.getLsbD b = (n.subjects.getLsbD b || due.any fun e => decide (e.1.val = b))))
    ∧ (∀ i, (promote r).sect i = earmarked (promote r).promotions (r.sect i))
    ∧ promote r = { r with
        sections := (promote r).sections, requests := (promote r).requests, promotions := (promote r).promotions,
        notices := (promote r).notices }

/-! ## Chapter 3: convoys and routes -/

/-- FCV (R53, R54): the home section becomes OCCUPIED with every member counted in, and the convoy stands on a route of one step;
where the section carried an earmark a pass runs, and the halt unit reviews the convoys, so that one formed on a LOST driver halts
(R94). The checks in their order otherwise. -/
def Obligations.FcvFormsAConvoy : Prop :=
  ∀ (f : Formation) (tag : Byte) (s : State), Ready s → 1 ≤ f.members.length → f.members.length ≤ 6 →
    (∀ m ∈ f.members, m.trailers ≤ 2 ∧ m.trim = 0 ∧ m.lastGap = none) →
    let c := Instr.fcv tag (fcvBody f)
    let v := s.part.road.sect f.home
    let refused := fun (st : Status) => exec c s = .next (s.replied 0x20 tag { status := st, body := [] } s.part)
    let vacant := (s.part.road.convoy f.convoy).state = .vacant
    let slotsFree := (f.members.map Member.slot).Nodup
      ∧ ∀ k, k ≠ f.convoy → ∀ n ∈ (s.part.road.convoy k).members, ∀ m ∈ f.members, n.slot ≠ m.slot
    let fits := fun (d : SectionDef) => ∀ a, d.allowed = some a → f.dir = a
    let formed := fun (d : SectionDef) => ({ Convoy.vacant with
      state := .plain .standing, members := f.members, source := f.source,
      route := [{ sec := f.home, dir := f.dir, branch := s.part.road.branchNow d, link := false, travel := f.travel,
                  status := .held }],
      history := List.replicate (3 * (f.members.length - 1)) 0, halt := (s.part.road.convoy f.convoy).halt } : Convoy)
    let road := fun (d : SectionDef) => (s.part.road.setConvoy f.convoy (formed d)).setSect f.home { v with
      earmark := none,
      status := .occupied { convoy := f.convoy, dir := f.dir, entered := f.members.length, exited := 0, log := [] } }
    (vacant → slotsFree → v.status = .free → ∀ d, v.defn = some d →
      (fits d → ∃ r, exec c s = .next (s.replied 0x20 tag okReply { s.part with road := r })
        ∧ Road.Kept (road d) r
        ∧ r = reviewHalts s.part.cells s.part.drivers (if v.earmark.isSome then arbitrate (road d) else road d)
        ∧ (v.earmark = none → AllClear { s.part with road := road d } → r = road d))
      ∧ (¬ fits d → refused .badVal))
    ∧ (¬ vacant → refused .badState)
    ∧ (vacant → ¬ slotsFree → refused .inUse)
    ∧ (vacant → slotsFree → v.status ≠ .free → refused .badState)

/-- DCV (R55, R46, R42): what a STANDING or ARRIVED convoy still asks for is withdrawn, its sections go OUT as DISBANDED and leave
their settling records, it becomes VACANT with every default, and the halt unit reviews the convoys. -/
def Obligations.DcvDisbandsAConvoy : Prop :=
  ∀ (c : ConvoyId) (tag : Byte) (s : State), Ready s →
    let v := s.part.road.convoy c
    let out := fun (w : Section) => if w.heldBy c then { w with status := .out .disbanded, settle := none } else w
    let left := { s.part.road with
      sections := Table.mapAll (fun _ w => out w) s.part.road.sections
      convoys := Table.put s.part.road.convoys c Convoy.vacant }
    ((v.state = .plain .standing ∨ v.state = .plain .arrived) →
      ∃ r, exec (.dcv tag [b8 c.val]) s = .next (s.replied 0x21 tag okReply { s.part with road := r })
        ∧ Convoy.Kept Convoy.vacant (r.convoy c) ∧ (r.convoy c).state = .vacant ∧ (r.convoy c).members = []
        ∧ (let w := withdrawAsked c s.part.road
           let held := (List.finRange 64).filter fun i => (w.sect i).heldBy c
           let taken := Table.mapAll (fun _ u => if u.heldBy c then { u with status := .out .disbanded } else u) w.sections
           r = reviewHalts s.part.cells s.part.drivers
             ((leaveHolder held { w with sections := taken }).setConvoy c Convoy.vacant))
        ∧ (∀ i, (s.part.road.sect i).heldBy c = true →
            (r.sect i).status = .out .disbanded ∧ (r.sect i).defn = (s.part.road.sect i).defn)
        ∧ (∀ i, (s.part.road.sect i).heldBy c = false → Section.Kept (s.part.road.sect i) (r.sect i))
        ∧ (v.asked = none → s.part.road.request c = none →
            (∀ i, Section.Kept (out (s.part.road.sect i)) (r.sect i))
            ∧ (s.part.road.settling = [] → AllClear { s.part with road := left } → r = left)))
    ∧ (v.state ≠ .plain .standing → v.state ≠ .plain .arrived →
        exec (.dcv tag [b8 c.val]) s = .next (s.replied 0x21 tag { status := .badState, body := [] } s.part))

/-- LRT (R56, R57, R58): a convoy that stands whole in one section takes a route that fits, with step 0 HELD, and a route that
flips its direction reverses it; a route that does not fit is refused. -/
def Obligations.LrtLoadsARoute : Prop :=
  ∀ (c : ConvoyId) (steps : List RouteStep) (tag : Byte) (s : State), Ready s → 1 ≤ steps.length → steps.length ≤ 16 →
    let v := s.part.road.convoy c
    let refused := fun (st : Status) =>
      exec (.lrt tag (lrtBody c steps)) s = .next (s.replied 0x22 tag { status := st, body := [] } s.part)
    let stands := fun (i : SectionId) (h : Holding) =>
      (v.state = .plain .standing ∨ v.state = .plain .arrived) ∧ (∀ t ∈ s.part.road.settling, t.convoy ≠ c)
        ∧ (∀ j, (s.part.road.sect j).heldBy c = true ↔ j = i) ∧ (s.part.road.sect i).status = .occupied h
        ∧ h.entered = v.members.length ∧ h.exited = 0
    let routed := { v with
      state := .plain .standing, lead := 0, tail := 0, furthest := 0,
      route := steps.mapIdx fun n t => { t with status := if n = 0 then .held else .ahead } }
    let flipped := { routed with
      members := v.members.reverse.map fun m => { m with trim := 0, lastGap := none },
      history := List.replicate (v.lag * (v.members.length - 1)) 0 }
    (∀ i h, stands i h → RouteFits s.part.road i steps → ∀ t, steps.head? = some t →
      exec (.lrt tag (lrtBody c steps)) s = .next (s.replied 0x22 tag okReply { s.part with
        road := if t.dir = h.dir then s.part.road.setConvoy c routed
                else (s.part.road.setConvoy c flipped).setSect i { s.part.road.sect i with
                  status := .occupied { h with dir := t.dir, log := [] } } }))
    ∧ (∀ i h, stands i h → ¬ RouteFits s.part.road i steps → refused .badRoute)
    ∧ ((∀ i h, ¬ stands i h) → refused .badState)

/-- RUN (R59): a convoy that may start becomes WAITING and asks for the group after its lead, and the grant may let it run at
once; under the park hold it is refused LATCHED. An ask (R23 to R25, R42, R65) names the run of linked steps from its first step,
ended before a held one, takes the next arrival number, joins the queues of its sections and starts a pass. -/
def Obligations.RunStartsAConvoy : Prop :=
  (∀ (c : ConvoyId) (tag : Byte) (s : State), Ready s →
    let v := s.part.road.convoy c
    let refused := fun (st : Status) =>
      exec (.run tag [b8 c.val]) s = .next (s.replied 0x23 tag { status := st, body := [] } s.part)
    let mayStart := v.state = .plain .standing ∧ v.lead + 1 < v.route.length
      ∧ ∀ n t, v.lead < n → v.route[n]? = some t → t.status ≠ .settling ∧ t.status ≠ .held
    (mayStart → s.part.parkHold = false →
      ∃ r, exec (.run tag [b8 c.val]) s = .next (s.replied 0x23 tag okReply { s.part with road := r })
        ∧ Road.Kept s.part.road r
        ∧ ((r.convoy c).state.base? = some .waiting ∨ (r.convoy c).state.base? = some .running)
        ∧ r = reviewHalts s.part.cells s.part.drivers
            (ask c (v.lead + 1) (s.part.road.setConvoy c { v with state := .plain .waiting })))
    ∧ (mayStart → s.part.parkHold = true → refused .latched)
    ∧ (¬ mayStart → refused .badState))
  ∧ (∀ (c : ConvoyId) (first : Nat) (r : Road),
    let w := withdrawAsked c r
    let v := w.convoy c
    (v.route.length ≤ first → ask c first r = w)
    ∧ (first < v.route.length → ∃ last, first ≤ last ∧ last < v.route.length
        ∧ (∀ n t u, first ≤ n → n < last → v.route[n]? = some t → v.route[n + 1]? = some u →
            t.link = true ∧ u.status ≠ .settling ∧ u.status ≠ .held)
        ∧ (∀ t u, v.route[last]? = some t → v.route[last + 1]? = some u →
            t.link = false ∨ u.status = .settling ∨ u.status = .held)
        ∧ ask c first r = arrive c first
            (((v.route.drop first).take (last + 1 - first)).map fun t => { sec := t.sec, dir := t.dir, branch := t.branch })
            (w.setConvoy c { ({ v with route := v.route.mapIdx fun n t =>
                if first ≤ n ∧ n ≤ last then { t with status := .requested } else t } : Convoy).reindex with
              asked := some (first, last) })))
  ∧ ∀ (c : ConvoyId) (first : Nat) (legs : List Leg) (r : Road), (legs.map Leg.sec).Nodup →
    let joined := fun (r : Road) => { r with
      requests := Table.put r.requests c (some { first := first, legs := legs, arrival := r.arrivals, passed := 0, promoted := false }),
      arrivals := r.arrivals + 1,
      sections := Table.mapAll (fun i v => if i ∈ legs.map Leg.sec then { v with queue := v.queue ++ [c] } else v) r.sections }
    (r.arrivals ≠ 65535 → arrive c first legs r = arbitrate (joined r))
    ∧ (r.arrivals = 65535 → ∃ n, arrive c first legs r = arbitrate (joined n)
        ∧ n = { r with requests := n.requests, arrivals := n.arrivals }
        ∧ n.arrivals = ((List.finRange 8).filter fun k => (r.request k).isSome).length
        ∧ (∀ k, r.request k = none → n.request k = none)
        ∧ ∀ k q, r.request k = some q → n.request k = some { q with
            arrival := ((List.finRange 8).filter fun k' => (r.request k').any fun q' => q'.arrival < q.arrival).length })

/-- RUN of a convoy alone on the road, over one step without a junction (R23, R24, R25, R35, R37, R59, R62, R63): it is granted and
runs at once where the section is FREE, and waits in the section's queue otherwise. -/
def Obligations.RunIsGrantedOrWaits : Prop :=
  ∀ (c : ConvoyId) (tag : Byte) (s : State) (t : RouteStep), Ready s → s.part.parkHold = false →
    AllClear s.part → NoRequests s.part.road → s.part.road.arrivals < 65535 →
    let v := s.part.road.convoy c
    let w := s.part.road.sect t.sec
    v.state = .plain .standing → v.asked = none → v.route[v.lead + 1]? = some t → t.link = false →
    (∀ n u, v.lead < n → v.route[n]? = some u → u.status ≠ .settling ∧ u.status ≠ .held) →
    let marked := fun (st : StepStatus) (b : BaseState) (asked : Option (Nat × Nat)) => ({ v with
      state := .plain b, asked := asked,
      route := v.route.mapIdx fun n u => if n = v.lead + 1 then { u with status := st } else u } : Convoy).reindex
    (w.status = .free → w.earmark = none → w.settle = none → (∀ d, w.defn = some d → d.junction = none) →
      exec (.run tag [b8 c.val]) s = .next (s.replied 0x23 tag okReply { s.part with
        road := ({ s.part.road with arrivals := s.part.road.arrivals + 1 }.setConvoy c (marked .held .running none)).setSect t.sec
          { w with
            status := .granted { convoy := c, dir := t.dir, entered := 0, exited := 0, log := [] },
            queue := w.queue.filter fun x => x ≠ c } }))
    ∧ (w.status ≠ .free →
      exec (.run tag [b8 c.val]) s = .next (s.replied 0x23 tag okReply { s.part with
        road := ((({ s.part.road with arrivals := s.part.road.arrivals + 1 }.setConvoy c
            (marked .requested .waiting (some (v.lead + 1, v.lead + 1)))).setSect t.sec { w with queue := w.queue ++ [c] }).setRequest c
          (some { first := v.lead + 1, legs := [{ sec := t.sec, dir := t.dir, branch := t.branch }],
                  arrival := s.part.road.arrivals, passed := 0, promoted := false })) }))

/-- STP (R42, R43, R60): a convoy that moves, or is HALTED, is stopped; what it asked for is withdrawn and what it held beyond its
lead is handed back. A withdrawal takes the request out of every queue, and that of a promoted one, with its earmarks, starts a
pass; a hand-back frees the named sections that are GRANTED to the convoy, makes their steps AHEAD, and then runs one pass. How the
freed sections leave their settling records is SettleTimersEnd's. -/
def Obligations.StpStopsAConvoy : Prop :=
  (∀ (c : ConvoyId) (tag : Byte) (s : State), Ready s →
    let v := s.part.road.convoy c
    let moves := v.state = .plain .waiting ∨ v.state = .plain .running ∨ ∃ b, v.state = .halted b
    let stood := fun (v : Convoy) => { v with state := v.state.mapBase fun b =>
      if b = BaseState.waiting ∨ b = BaseState.running then .standing else b }
    let back := handBack c (withdrawAsked c s.part.road)
    (moves →
      ∃ r, exec (.stp tag [b8 c.val]) s = .next (s.replied 0x24 tag okReply { s.part with road := r })
        ∧ r = reviewHalts s.part.cells s.part.drivers (back.setConvoy c (stood (back.convoy c)))
        ∧ Road.HandedBack s.part.road r
        ∧ ((r.convoy c).state.base? = some .standing ∨ (r.convoy c).state.base? = some .arrived)
        ∧ (v.asked = none → s.part.road.request c = none → s.part.road.settling = [] → AllClear s.part →
            (∀ n t, v.lead < n → v.route[n]? = some t → t.status ≠ .settling ∧ t.status ≠ .held) →
            r = s.part.road.setConvoy c (stood v).reindex))
    ∧ (¬ moves → exec (.stp tag [b8 c.val]) s = .next (s.replied 0x24 tag { status := .badState, body := [] } s.part)))
  ∧ (∀ (c : ConvoyId) (r : Road),
    let v := r.convoy c
    let without := { r with
      requests := Table.put r.requests c none, promotions := r.promotions.filter fun x => x ≠ c,
      sections := Table.mapAll (fun _ w => { w with
        queue := w.queue.filter fun x => x ≠ c, earmark := if w.earmark = some c then none else w.earmark }) r.sections }
    (r.request c = none → withdraw c r = r)
    ∧ (∀ q, r.request c = some q → withdraw c r = if q.promoted then arbitrate without else without)
    ∧ (v.asked = none → withdrawAsked c r = withdraw c r)
    ∧ (∀ a b, v.asked = some (a, b) → withdrawAsked c r = withdraw c (r.setConvoy c { ({ v with
        route := v.route.mapIdx fun n t => if a ≤ n ∧ n ≤ b ∧ t.status = .requested then { t with status := .ahead } else t } :
          Convoy).reindex with asked := none })))
  ∧ ∀ (c : ConvoyId) (r : Road),
    let v := r.convoy c
    ∃ freed : List SectionId,
      (∀ i, i ∈ freed ↔ (∃ n t, v.lead < n ∧ v.route[n]? = some t ∧ (t.status = .settling ∨ t.status = .held) ∧ t.sec = i)
          ∧ ∃ h, (r.sect i).status = .granted h ∧ h.convoy = c)
      ∧ (let left := leaveHolder freed { r with
          sections := Table.mapAll (fun i w => if i ∈ freed then { w with status := .free } else w) r.sections,
          convoys := Table.put r.convoys c ({ v with route := v.route.mapIdx fun n t =>
            if v.lead < n ∧ (t.status = .settling ∨ t.status = .held) ∧ t.sec ∈ freed then { t with status := .ahead } else t } :
              Convoy).reindex }
        handBack c r = if freed = [] then left else arbitrate left)

/-- TCV and SPD (R61, R76): each present field replaces the stored one, a new demand source sets the timetable demand to 0 and a
lag refills the history, and the halt unit reviews the convoys, since a new source may have a LOST driver or have left one (R94,
R103); the host speed is stored alone. That values out of range are refused before the state is looked at is log entry 25, that the
gap bounds are checked as they result log entry 26, and that a lag given again refills the history log entry 27, the model's
readings. -/
def Obligations.TcvAndSpdTuneAConvoy : Prop :=
  (∀ (q : TcvReq) (c : ConvoyId) (tag : Byte) (s : State), Ready s → q.convoy = b8 c.val →
    FieldsFit tcvSizes [q.priority, q.lag, q.gapMin, q.gapMax, q.trimStep, q.source, q.cruise, q.ramp] →
    let v := s.part.road.convoy c
    let refused := fun (st : Status) =>
      exec (.tcv tag (tcvBody q)) s = .next (s.replied 0x25 tag { status := st, body := [] } s.part)
    let inRange := (∀ n, q.priority = some n → n ≤ 15) ∧ (∀ n, q.lag = some n → n ≤ 15)
      ∧ (∀ n, q.gapMin = some n → n ≤ 6000) ∧ (∀ n, q.gapMax = some n → n ≤ 6000)
      ∧ (∀ n, q.trimStep = some n → 1 ≤ n ∧ n ≤ 5)
      ∧ (∀ n, q.source = some n → n / 256 ≤ 1 ∨ (n / 256 = 2 ∧ n % 256 ≤ 7))
      ∧ (∀ n, q.cruise = some n → n ≤ 100) ∧ (∀ n, q.ramp = some n → 1 ≤ n ∧ n ≤ 20)
    let source := match q.source with | some n => (demandSourceOf? (n / 256) (n % 256)).getD v.source | none => v.source
    let tuned := { v with
      priority := q.priority.getD v.priority, lag := q.lag.getD v.lag, gapMin := q.gapMin.getD v.gapMin,
      gapMax := q.gapMax.getD v.gapMax, trimStep := q.trimStep.getD v.trimStep, cruise := q.cruise.getD v.cruise,
      ramp := q.ramp.getD v.ramp, source := source, ttDemand := if v.source = source then v.ttDemand else 0,
      history := match q.lag with | some n => List.replicate (n * (v.members.length - 1)) 0 | none => v.history }
    (inRange → v.state ≠ .vacant → tuned.gapMin ≤ tuned.gapMax →
      ∃ r, exec (.tcv tag (tcvBody q)) s = .next (s.replied 0x25 tag okReply { s.part with road := r })
        ∧ Road.Kept (s.part.road.setConvoy c tuned) r
        ∧ r = reviewHalts s.part.cells s.part.drivers (s.part.road.setConvoy c tuned)
        ∧ (AllClear { s.part with road := s.part.road.setConvoy c tuned } → r = s.part.road.setConvoy c tuned))
    ∧ (¬ inRange → refused .badVal)
    ∧ (inRange → v.state = .vacant → refused .badState)
    ∧ (inRange → v.state ≠ .vacant → tuned.gapMax < tuned.gapMin → refused .badVal))
  ∧ ∀ (c : ConvoyId) (speed tag : Byte) (s : State), Ready s →
    let v := s.part.road.convoy c
    let refused := fun (st : Status) =>
      exec (.spd tag [b8 c.val, speed]) s = .next (s.replied 0x28 tag { status := st, body := [] } s.part)
    (speed.toNat ≤ 100 → v.state ≠ .vacant →
      exec (.spd tag [b8 c.val, speed]) s = .next (s.replied 0x28 tag okReply { s.part with
        road := s.part.road.setConvoy c { v with hostSpeed := speed.toNat } }))
    ∧ (100 < speed.toNat → refused .badVal)
    ∧ (speed.toNat ≤ 100 → v.state = .vacant → refused .badState)

/-! ## Chapter 4: demand and drivers -/

/-- A formed convoy at a frame start (R75, R77, R85 to R88). -/
def Obligations.MembersFollowTheLead : Prop :=
  ∀ (mode : ModeControl) (drivers : DriverPort) (period : Nat) (v : Convoy),
    let w := (v.frame mode drivers period).1
    let answer := (v.frame mode drivers period).2
    let step := v.ramp * period / 10
    let target := v.cruise * 100
    let ttDemand := match v.source with
      | .timetable =>
        if v.state = .plain .running then
          if v.ttDemand < target then min (v.ttDemand + step) target else max (v.ttDemand - step) target
        else 0
      | _ => v.ttDemand
    let demand := match v.source with
      | .host => v.hostSpeed
      | .timetable => ttDemand / 100
      | .driver d => match (Table.at drivers.handsets d).presence with
        | .present _ => (Table.at drivers.handsets d).throttle.toNat
        | .lost => 0
    let rearm := v.halt.rearm && decide (demand ≠ 0)
    let drives := v.state = .plain .running ∧ (mode.mode = .run ∨ mode.mode = .slow) ∧ rearm = false
    let each := fun (k : Nat) (m : Member) =>
      let base := ((demand :: v.history)[v.lag * k]?).getD 0
      let sum : Int := base + m.trim * v.trimStep
      let percent := if base = 0 then 0 else (max 0 (min 100 sum)).toNat
      if mode.mode = .slow then min percent mode.slowLimit else percent
    (w = { v with ttDemand := ttDemand, halt := { v.halt with rearm := rearm }, history := w.history }
      ∧ w.history.length = v.history.length)
    ∧ (drives → w.history = (demand :: v.history).take v.history.length
        ∧ ∃ travel, answer = .percent (v.members.mapIdx each) travel
          ∧ ∀ t, v.route[v.lead]? = some t → travel = t.travel)
    ∧ (¬ drives → w.history = (0 :: v.history).take v.history.length
        ∧ answer = match v.state with | .halted _ => .halted | _ => .neutral)

/-- HANDSET_UPDATE and LOST_TIMER_EXPIRY (R78 to R81): a valid update replaces the record and starts the 300 ms again, a damaged
one is counted, and a throttle other than 0 may wake the layout; a driver whose timer has nothing left is LOST and announced. A
press of HALT and the loss go to the halt unit (HaltsBeginAndEnd says what it does). That LOST_TIMER_EXPIRY of a LOST driver, or of
one whose timer an update has started again, changes nothing is log entry 8, the model's choice where R80 does not say it; that a press
in the update that ends a loss joins before DRIVER_LOST leaves is log entry 30, and that a notice starts at the end of the event log
entry 4, the model's choices. -/
def Obligations.HandsetsAreHeard : Prop :=
  (∀ (d : DriverId) (throttle buttons : Byte) (s : State), Quiet s → -100 ≤ throttle.toInt → throttle.toInt ≤ 100 →
    buttons.toNat < 8 →
    let p := s.part
    let old := Table.at p.drivers.handsets d
    let new : Handset := { throttle := throttle.toInt, horn := buttons.getLsbD 0, halt := buttons.getLsbD 1,
                           aux := buttons.getLsbD 2, presence := .present 300 }
    let drivers := { p.drivers with handsets := Table.put p.drivers.handsets d new }
    let wakes := p.mode.mode = .park ∧ p.mode.driverWake = true ∧ throttle.toInt ≠ 0
    ∃ r, Road.Kept p.road r
      ∧ r = reviewHalts p.cells drivers
          (if new.halt = true ∧ old.halt = false then driverHaltEvent d p.road else p.road)
      ∧ exec (.handsetUpdate (b8 d.val) throttle buttons) s = .next (transmit { s with
          part :=
            if wakes then { p with drivers := drivers, mode := { p.mode with mode := .hold, latch := true },
                                   road := (r.raise srcModeChanged 0).raise srcParkWake 0 }
            else { p with drivers := drivers, road := r } })
      ∧ ((new.halt = false ∨ old.halt = true ∨ ∀ c, (p.road.convoy c).state.formed = true → (p.road.convoy c).source ≠ .driver d) →
          AllClear { p with drivers := drivers } → r = p.road))
  ∧ (∀ (driver throttle buttons : Byte) (s : State), Quiet s →
      8 ≤ driver.toNat ∨ throttle.toInt < -100 ∨ 100 < throttle.toInt ∨ 8 ≤ buttons.toNat →
      exec (.handsetUpdate driver throttle buttons) s = .next (transmit { s with
        part := { s.part with drivers := { s.part.drivers with
          errors := if s.part.drivers.errors < 255 then s.part.drivers.errors + 1 else s.part.drivers.errors } } }))
  ∧ ∀ (d : DriverId) (s : State), Quiet s →
    let p := s.part
    let lost : Handset := { throttle := 0, horn := false, halt := false, aux := false, presence := .lost }
    let drivers := { p.drivers with handsets := Table.put p.drivers.handsets d lost }
    let road := p.road.raise srcDriverLost (subject d.val)
    ((Table.at p.drivers.handsets d).presence = .present 0 →
      ∃ r, Road.Kept road r ∧ r = reviewHalts p.cells drivers road
        ∧ exec (.lostTimerExpiry d) s = .next (transmit { s with part := { p with drivers := drivers, road := r } })
        ∧ (AllClear { p with drivers := drivers, road := road } → r = road))
    ∧ ((Table.at p.drivers.handsets d).presence ≠ .present 0 → exec (.lostTimerExpiry d) s = .next (transmit s))

/-! ## Chapter 5: halts -/

/-- What the halt unit does to one convoy (R93, R95 to R97, R103 to R106): which level sources are active; the enabled sources that
happen or are active join the cause set of a formed convoy and halt it; under AUTO the causes whose sources are inactive leave; and a
halt that ends gives the return state back, with re-arm set and the history of zeros. The unit takes each convoy in turn, joins, lets
leave, and joins what the end of a halt has made active (log entry 29, the model's choice of an order). That a halt end makes the
timetable demand 0, so that under TIMETABLE re-arm clears at the first frame start, is log entry 46, the model's choice. -/
def Obligations.HaltsBeginAndEnd : Prop :=
  (∀ (c : ConvoyId) (srcs : SourceSet) (r : Road),
    let v := r.convoy c
    let new := srcs &&& v.halt.enabled &&& ~~~v.halt.causes
    (v.state ≠ .vacant → new ≠ 0 →
      joinCauses c srcs r = Road.raise srcConvoyHalted (subject c.val) (r.setConvoy c { v with
        state := match v.state with | .plain b => .halted b | st => st,
        halt := { v.halt with causes := v.halt.causes ||| new } }))
    ∧ (v.state = .vacant ∨ new = 0 → joinCauses c srcs r = r))
  ∧ (∀ (active : SourceSet) (c : ConvoyId) (r : Road),
    let v := r.convoy c
    let kept := v.halt.causes &&& (~~~(0x3FF : SourceSet) ||| active)
    (v.state.isHalted = true → v.halt.restart = .auto → kept ≠ 0 →
      leaveCauses active c r = r.setConvoy c { v with halt := { v.halt with causes := kept } })
    ∧ (v.state.isHalted = true → v.halt.restart = .auto → kept = 0 → leaveCauses active c r = haltEnd c r)
    ∧ (v.state.isHalted = false ∨ v.halt.restart = .manual → leaveCauses active c r = r))
  ∧ (∀ (c : ConvoyId) (r : Road) (b : BaseState),
    let v := r.convoy c
    let clear := v.route[v.lead + 1]? = none ∨ ∃ t, v.route[v.lead + 1]? = some t ∧ t.status = .held
    let ended := fun (b : BaseState) => r.setConvoy c { v with
      state := .plain b, ttDemand := 0, halt := { v.halt with causes := 0, rearm := true },
      history := List.replicate (v.lag * (v.members.length - 1)) 0 }
    v.state = .halted b →
      (b = .standing ∨ b = .arrived → haltEnd c r = ended b)
      ∧ (b = .waiting ∨ b = .running → clear → haltEnd c r = ended .running)
      ∧ (b = .waiting ∨ b = .running → ¬ clear →
          (v.nextStatus = some .ahead → v.asked = none → haltEnd c r = ask c (v.lead + 1) (ended .waiting))
          ∧ (v.nextStatus ≠ some .ahead ∨ v.asked ≠ none → haltEnd c r = ended .waiting)))
  ∧ (∀ (d : DriverId) (r : Road) (c : ConvoyId),
    ((r.convoy c).state.formed = true → (r.convoy c).source = .driver d →
      (driverHaltEvent d r).convoy c = (joinCauses c (BitVec.twoPow 13 10) r).convoy c)
    ∧ ((r.convoy c).state.formed = false ∨ (r.convoy c).source ≠ .driver d → (driverHaltEvent d r).convoy c = r.convoy c))
  ∧ (∀ (cells : Table Cell 8) (drivers : DriverPort) (c : ConvoyId) (r : Road),
    let v := r.convoy c
    let active := activeLevels cells drivers c r
    (v.state = .vacant → active = 0)
    ∧ (v.state ≠ .vacant →
        (∀ k : CellId, active.getLsbD k.val = (Table.at cells k).output)
        ∧ (active.getLsbD 8 = true ↔ ∃ d, v.source = .driver d ∧ (Table.at drivers.handsets d).presence = .lost)
        ∧ (active.getLsbD 9 = true ↔
            (∃ i h, (r.sect i).status.isFault = true ∧ (r.sect i).status.holding = some h ∧ h.convoy = c)
            ∨ (∃ q, r.request c = some q ∧ ∃ l ∈ q.legs, (r.sect l.sec).status.isFault = true)
            ∨ ∃ t ∈ r.settling, t.convoy = c ∧ ∃ i ∈ t.sections, (r.sect i).status.isFault = true)
        ∧ ∀ k, 10 ≤ k → active.getLsbD k = false))
  ∧ (∀ (cells : Table Cell 8) (drivers : DriverPort) (r : Road),
    let levels := activeLevels cells drivers
    let reviewed := fun (r : Road) (c : ConvoyId) =>
      let joined := joinCauses c (levels c r) r
      let left := leaveCauses (levels c joined) c joined
      joinCauses c (levels c left) left
    reviewHalts cells drivers r = (List.finRange 8).foldl reviewed r
    ∧ ∀ c, (r.convoy c).state ≠ .vacant → ((r.convoy c).state.isHalted = false → (r.convoy c).halt.causes = 0) →
        levels c r &&& (r.convoy c).halt.enabled ≠ 0 →
        let v := (reviewed r c).convoy c
        v.state.isHalted = true ∧ levels c r &&& (r.convoy c).halt.enabled &&& ~~~v.halt.causes = 0)
  ∧ ∀ (mode : ModeControl) (drivers : DriverPort) (period : Nat) (v : Convoy),
    v.source = .timetable → v.ttDemand = 0 → v.ramp ≤ 20 → period < 50 →
      (v.frame mode drivers period).1.halt.rearm = false

/-- SHL, HLT and RSM (R99, R100, R104, R105): the halt record of a convoy that is not HALTED is set; the HOST event halts a formed
convoy that enables it; and RSM ends a halt unless an enabled level source is active. That a reserved source bit, or a code outside
its values, is refused BADVAL before the state is looked at is log entry 25, that the sources of a refusal ACTIVE are one source mask
log entry 22, and that a halt end makes the timetable demand 0 log entry 46, the model's choices. -/
def Obligations.HaltRequests : Prop :=
  (∀ (c : ConvoyId) (sources : Nat) (a : ThrottleAction) (l : LightsAction) (m : RestartMode) (tag : Byte) (s : State), Ready s →
    sources < 65536 →
    let v := s.part.road.convoy c
    let req := Instr.shl tag ([b8 c.val] ++ halfBytes sources ++ [b8 (throttleActionCode a), b8 (lightsActionCode l), b8 (restartModeCode m)])
    let refused := fun (st : Status) => exec req s = .next (s.replied 0x30 tag { status := st, body := [] } s.part)
    let set := s.part.road.setConvoy c { v with halt := { v.halt with
      enabled := BitVec.ofNat 13 sources, throttle := a, lights := l, restart := m } }
    (sources < 8192 → v.state.isHalted = false →
      ∃ r, exec req s = .next (s.replied 0x30 tag okReply { s.part with road := r }) ∧ Road.Kept set r
        ∧ r = reviewHalts s.part.cells s.part.drivers set
        ∧ (AllClear { s.part with road := set } → r = set))
    ∧ (8192 ≤ sources → refused .badVal) ∧ (sources < 8192 → v.state.isHalted = true → refused .badState))
  ∧ (∀ (convoy hi lo throttle lights restart tag : Byte) (s : State), Ready s →
    8 ≤ convoy.toNat ∨ 3 < throttle.toNat ∨ 3 < lights.toNat ∨ 1 < restart.toNat →
      exec (.shl tag [convoy, hi, lo, throttle, lights, restart]) s
        = .next (s.replied 0x30 tag { status := .badVal, body := [] } s.part))
  ∧ (∀ (c : ConvoyId) (tag : Byte) (s : State), Ready s →
    let v := s.part.road.convoy c
    let halted := Road.raise srcConvoyHalted (subject c.val) (s.part.road.setConvoy c { v with
      state := match v.state with | .plain b => .halted b | st => st,
      halt := { v.halt with causes := v.halt.causes ||| BitVec.twoPow 13 12 } })
    (v.state ≠ .vacant → v.halt.enabled.getLsbD 12 = true →
      exec (.hlt tag [b8 c.val]) s = .next (s.replied 0x31 tag okReply
        { s.part with road := if v.halt.causes.getLsbD 12 then s.part.road else halted }))
    ∧ (v.state = .vacant ∨ v.halt.enabled.getLsbD 12 = false →
        exec (.hlt tag [b8 c.val]) s = .next (s.replied 0x31 tag { status := .badState, body := [] } s.part)))
  ∧ ∀ (c : ConvoyId) (tag : Byte) (s : State), Ready s →
    let v := s.part.road.convoy c
    let active := activeLevels s.part.cells s.part.drivers c s.part.road &&& v.halt.enabled
    let clear := v.route[v.lead + 1]? = none ∨ ∃ t, v.route[v.lead + 1]? = some t ∧ t.status = .held
    let ended := fun (b : BaseState) => s.part.road.setConvoy c { v with
      state := .plain b, ttDemand := 0, halt := { v.halt with causes := 0, rearm := true },
      history := List.replicate (v.lag * (v.members.length - 1)) 0 }
    (v.state.isHalted = false →
      exec (.rsm tag [b8 c.val]) s = .next (s.replied 0x32 tag { status := .badState, body := [] } s.part))
    ∧ (v.state.isHalted = true → active ≠ 0 →
      exec (.rsm tag [b8 c.val]) s = .next (s.replied 0x32 tag { status := .active, body := halfBytes active.toNat } s.part))
    ∧ (∀ b, v.state = .halted b → active = 0 →
      ∃ r, exec (.rsm tag [b8 c.val]) s = .next (s.replied 0x32 tag okReply { s.part with road := r })
        ∧ Road.Kept s.part.road r ∧ r = reviewHalts s.part.cells s.part.drivers (haltEnd c s.part.road)
        ∧ (b = .standing ∨ b = .arrived → AllClear { s.part with road := ended b } → r = ended b)
        ∧ (b = .waiting ∨ b = .running → clear → AllClear { s.part with road := ended .running } → r = ended .running))

/-! ## Chapter 6: condition cells -/

/-- R116: a gate is the AND of its included terms, false when it includes none, and then its own invert flag; it is formed from the
inputs as they read, with nothing kept. -/
def Obligations.GatesAreTheAndOfTheirTerms : Prop :=
  (∀ (inputs : Fin 4 → Bool) (g : Gate),
    let included := ∃ i, Table.at g.terms i ≠ .ignored
    let allTrue := ∀ i, (Table.at g.terms i = .asRead → inputs i = true) ∧ (Table.at g.terms i = .inverted → inputs i = false)
    (g.invert = false → (g.value inputs = true ↔ included ∧ allTrue))
    ∧ (g.invert = true → (g.value inputs = true ↔ ¬ (included ∧ allTrue)))
    ∧ ((∀ i, Table.at g.terms i = .ignored) → g.value inputs = g.invert))
  ∧ ∀ (p : Part) (outs : Table Cell 8) (c : Cell),
    let inputs := fun i => p.input outs (Table.at c.selectors i)
    p.gates outs c = { g1 := (Table.at c.gates 0).value inputs, g2 := (Table.at c.gates 1).value inputs,
                       g3 := (Table.at c.gates 2).value inputs, g4 := (Table.at c.gates 3).value inputs }

/-- R117: the three plain functions of an ENABLED cell at a scan. -/
def Obligations.PlainFunctionsFollowTheGates : Prop :=
  ∀ (c : Cell) (gates : Cell → Gates), c.enabled = true →
    let g := gates c.reloaded
    let after := c.scanned gates
    (c.fn = .andOr → after.output = (((g.g1 && g.g2) || (g.g3 && g.g4)) != c.invert))
    ∧ (c.fn = .orXor → after.output = (((g.g1 || g.g2) != (g.g3 || g.g4)) != c.invert))
    ∧ (c.fn = .allFour → after.output = ((g.g1 && g.g2 && g.g3 && g.g4) != c.invert))
    ∧ (c.fn = .andOr ∨ c.fn = .orXor ∨ c.fn = .allFour →
        (c.latch = false → after.latch = false) ∧ (c.remaining = 0 → after.remaining = 0))
    ∧ (g.g2 = false → g.g3 = false → g.g4 = false →
        (c.fn = .orXor → after.output = (g.g1 != c.invert)) ∧ (c.fn = .andOr → after.output = c.invert))

/-- The latch of an ENABLED cell under SET_RESET (R119) and under TOGGLE (R120). A reload empties it before the scan (R122), a
DISABLED cell has none (R111), and a rise of g1 is seen at one scan alone (R118). -/
def Obligations.LatchesSetResetAndToggle : Prop :=
  ∀ (c : Cell) (gates : Cell → Gates),
    let b := c.reloaded
    let g := gates b
    let after := c.scanned gates
    (c.enabled = true → c.fn = .setReset →
      after.latch = (if g.g3 || g.g4 then false else if g.g1 || g.g2 then true else b.latch)
      ∧ after.output = (after.latch != c.invert)
      ∧ (g.g3 = false → g.g4 = false → c.reload = false → c.latch = true → after.latch = true))
    ∧ (c.enabled = true → c.fn = .toggle →
      after.latch = (if g.g3 || g.g4 then false else if g.g1 && decide (b.last = some false) && g.g2 then !b.latch else b.latch)
      ∧ after.output = (after.latch != c.invert) ∧ after.last = some g.g1)
    ∧ (c.reload = true → b.latch = false ∧ b.last = none)
    ∧ (c.reload = false → b = c)
    ∧ (c.enabled = false → after.latch = false ∧ after.last = none)

/-- R121: the three steps of a scan under ONE_SHOT, the time a rise holds the output, and ONE_SHOT_EXPIRY (log entry 9). -/
def Obligations.OneShotsHoldTheirTime : Prop :=
  (∀ (c : Cell) (gates : Cell → Gates), c.enabled = true → c.fn = .oneShot → c.reload = false →
    let g := gates c
    let after := c.scanned gates
    let left := if c.latch then c.remaining - 5 else c.remaining
    let kept := c.latch && decide (left ≠ 0)
    let rises := g.g1 && decide (c.last = some false)
    after.latch = (if g.g3 || g.g4 then false else if rises then true else kept)
    ∧ after.remaining = (if g.g3 || g.g4 then 0 else if rises then c.shotTime else left)
    ∧ after.output = (after.latch != c.invert))
  ∧ (∀ (c : Cell) (n k : Nat), c.enabled = true → c.fn = .oneShot → c.reload = false → c.last = some false →
    c.shotTime = 5 * n → 1 ≤ n →
      let scan := fun (c : Cell) => c.scanned fun _ => { g1 := true, g2 := false, g3 := false, g4 := false }
      (Nat.repeat scan (k + 1) c).output = (decide (k < n) != c.invert))
  ∧ ∀ (k : CellId) (s : State), s.resets.held = false →
    let c := Table.at s.part.cells k
    let ended := if c.enabled = true ∧ c.fn = .oneShot ∧ c.latch = true ∧ c.reload = false ∧ c.remaining ≤ 5
      then { c with latch := false, remaining := 0 } else c
    exec (.oneShotExpiry k) s = .next { s with part := { s.part with cells := Table.put s.part.cells k ended } }

/-- CELL_SCAN (R113, R122, R123, R124, R178): the cells in number order, each seeing the new outputs of the lower ones; the pulse
marks cleared; the edge notices, the flash phases and the hold trigger of the outputs that changed. What each selector reads at the
scan is said of every kind (R112, R113, R114); what a line's level is LinesAreWrittenReadAndFlashed says. That a notice starts at
the end of the event is log entry 4, the model's choice. -/
def Obligations.TheScanRunsTheCells : Prop :=
  (∀ s : State, Quiet s →
    let p := s.part
    ∃ cells r m, exec .cellScan s = .next (transmit { s with part := { p with
        cells := cells, pulses := { minute := false, quarter := false, hour := false }, road := r, mode := m } })
      ∧ (∀ k, ∃ outs, (∀ j, Table.at outs j = if j < k then Table.at cells j else Table.at p.cells j)
          ∧ (∀ j, p.input outs (.cell j) = if j < k then (Table.at cells j).output else (Table.at p.cells j).output)
          ∧ Table.at cells k = (Table.at p.cells k).scanned (p.gates outs))
      ∧ (∀ k, (Table.at cells k).reload = false
          ∧ ((Table.at p.cells k).enabled = false →
              (Table.at cells k).output = false ∧ (Table.at cells k).latch = false ∧ (Table.at cells k).remaining = 0
                ∧ (Table.at cells k).last = none))
      ∧ (∀ c, Convoy.Kept (p.road.convoy c) (r.convoy c)) ∧ (∀ i, Section.Kept (p.road.sect i) (r.sect i))
      ∧ (∀ l, r.line l = { p.road.line l with flash := (r.line l).flash, junction := (r.line l).junction }
          ∧ (∀ up, p.parkHold = false → (p.road.line l).function = .flash →
              (Table.at p.cells (p.road.line l).flashGate).output = (!up) →
              (Table.at cells (p.road.line l).flashGate).output = up →
              (r.line l).flash = if up then some { phase := true, left := (p.road.line l).flashPeriod / 2 } else none)
          ∧ (p.parkHold = true ∨ (p.road.line l).function ≠ .flash
              ∨ (Table.at cells (p.road.line l).flashGate).output = (Table.at p.cells (p.road.line l).flashGate).output →
              (r.line l).flash = (p.road.line l).flash))
      ∧ (∀ k, (Table.at p.cells k).output ≠ (Table.at cells k).output →
          (if (Table.at cells k).output then (Table.at p.cells k).riseNotice else (Table.at p.cells k).fallNotice) = true →
          (Table.at r.notices.sources (srcCellEdge k)).pending = true
            ∧ (Table.at r.notices.sources (srcCellEdge k)).subjects.getLsbD k.val = true)
      ∧ (∀ k, (Table.at p.cells k).output = (Table.at cells k).output
            ∨ (if (Table.at cells k).output then (Table.at p.cells k).riseNotice else (Table.at p.cells k).fallNotice) = false →
          Table.at r.notices.sources (srcCellEdge k) = Table.at p.road.notices.sources (srcCellEdge k))
      ∧ (let rises := ∃ k, p.mode.holdCell = some k ∧ (Table.at p.cells k).output = false ∧ (Table.at cells k).output = true
         (rises → (p.mode.mode = .run ∨ p.mode.mode = .slow) →
            m = { p.mode with mode := .hold } ∧ (Table.at r.notices.sources srcModeChanged).pending = true)
         ∧ (¬ rises ∨ (p.mode.mode ≠ .run ∧ p.mode.mode ≠ .slow) → m = p.mode))
      ∧ (∃ told, r = reviewHalts cells p.drivers told
          ∧ told = { p.road with notices := told.notices,
                                 lines := Table.mapAll (fun l v => { v with flash := (r.line l).flash }) p.road.lines })
      ∧ ((∀ k, (Table.at cells k).output = (Table.at p.cells k).output) → AllClear { p with cells := cells } → r = p.road))
  ∧ ∀ (p : Part) (outs : Table Cell 8),
    let reads := p.input outs
    (∀ i h, (p.road.sect i).status.holding = some h → reads (.sectionHeld i) = true)
    ∧ (∀ i, (p.road.sect i).status.holding = none → reads (.sectionHeld i) = false)
    ∧ (∀ i, reads (.sectionFault i) = true ↔ ∃ cause h, (p.road.sect i).status = .fault cause h)
    ∧ (∀ c, (reads (.convoyRunning c) = true ↔ (p.road.convoy c).state = .plain .running)
        ∧ (reads (.convoyWaiting c) = true ↔ (p.road.convoy c).state = .plain .waiting)
        ∧ (reads (.convoyHalted c) = true ↔ ∃ b, (p.road.convoy c).state = .halted b))
    ∧ (∀ k, reads (.cell k) = (Table.at outs k).output)
    ∧ (∀ d, (reads (.driverPresent d) = true ↔ ∃ left, (Table.at p.drivers.handsets d).presence = .present left)
        ∧ reads (.driverHorn d) = (Table.at p.drivers.handsets d).horn
        ∧ reads (.driverHalt d) = (Table.at p.drivers.handsets d).halt
        ∧ reads (.driverAux d) = (Table.at p.drivers.handsets d).aux)
    ∧ (∀ l, reads (.lineLevel l) = (p.road.line l).level p.parkHold p.cells)
    ∧ (∀ e, reads (.departureFired e) = (Table.at p.departures e).fired)
    ∧ reads (.clockPulse .minute) = p.pulses.minute ∧ reads (.clockPulse .quarter) = p.pulses.quarter
    ∧ reads (.clockPulse .hour) = p.pulses.hour
    ∧ (∀ m, reads (.modeIs m) = true ↔ p.mode.mode = m)
    ∧ reads .always = true

/-- SCL (R125, R210): each present field replaces the stored one and reload is set; the output and the working state stay until the
next scan. Mask bits that name no field change nothing (log entry 24). -/
def Obligations.SclConfiguresACell : Prop :=
  ∀ (q : SclReq) (k : CellId) (tag : Byte) (s : State), Ready s → q.cell = b8 k.val →
    q.selectors.length = 4 → q.gates.length = 4 →
    let fields := [q.enable] ++ q.selectors ++ q.gates ++ [q.fn, q.invert, q.shotTime, q.rise, q.fall]
    FieldsFit sclSizes fields →
    let c := Table.at s.part.cells k
    let flag := fun (o : Option Nat) => ∀ n, o = some n → n ≤ 1
    let inRange := flag q.enable ∧ (∀ n, some n ∈ q.selectors → (selectorOf? (n / 256) (n % 256)).isSome = true)
      ∧ (∀ n, some n ∈ q.gates → n % 256 ≤ 1 ∧ ∀ j < 4, n / 256 / 4 ^ j % 4 ≤ 2)
      ∧ (∀ n, q.fn = some n → n ≤ 5) ∧ flag q.invert
      ∧ (∀ n, q.shotTime = some n → 100 ≤ n ∧ n ≤ 25500 ∧ n % 100 = 0) ∧ flag q.rise ∧ flag q.fall
    let bit := fun (o : Option Nat) (old : Bool) => (o.map fun n => decide (n = 1)).getD old
    (∀ extra < 4, exec (.scl tag (q.cell :: (halfBytes (maskOf fields + 16384 * extra) ++ writeFields sclSizes fields))) s
        = exec (.scl tag (sclBody q)) s)
    ∧ (inRange →
      ∃ cells, exec (.scl tag (sclBody q)) s = .next (s.replied 0x38 tag okReply { s.part with cells := cells })
        ∧ (∀ j, j ≠ k → Table.at cells j = Table.at s.part.cells j)
        ∧ Table.at cells k = { c with
            enabled := bit q.enable c.enabled, invert := bit q.invert c.invert, riseNotice := bit q.rise c.riseNotice,
            fallNotice := bit q.fall c.fallNotice, shotTime := q.shotTime.getD c.shotTime,
            fn := (q.fn.bind cellFnOf?).getD c.fn, reload := true,
            selectors := (Table.at cells k).selectors, gates := (Table.at cells k).gates }
        ∧ ∀ i : Fin 4,
          Table.at (Table.at cells k).selectors i
              = ((q.selectors[i.val]?.join).bind fun n => selectorOf? (n / 256) (n % 256)).getD (Table.at c.selectors i)
          ∧ Table.at (Table.at cells k).gates i
              = ((q.gates[i.val]?.join).bind fun n => gateOf? (n / 256) (n % 256)).getD (Table.at c.gates i))
    ∧ (¬ inRange → exec (.scl tag (sclBody q)) s = .next (s.replied 0x38 tag { status := .badVal, body := [] } s.part))

/-! ## Chapter 7: vehicle slots -/

/-- SSL (R128, R138, R139, R210): a new pending set, applied at once to a slot that is OFF_AIR. Mask bits that name no field change
nothing (log entry 24). -/
def Obligations.SslSetsASlot : Prop :=
  ∀ (q : SslReq) (i : SlotId) (tag : Byte) (s : State), Ready s → q.slot = b8 i.val →
    let fields := [q.address, q.span, q.brake, q.deadFR, q.deadRF, q.reverse]
    FieldsFit sslSizes fields →
    let t := Table.at s.part.composer.slots i
    let refused := fun (st : Status) =>
      exec (.ssl tag (sslBody q)) s = .next (s.replied 0x40 tag { status := st, body := [] } s.part)
    let dead := fun (o : Option Nat) => ∀ n, o = some n → n ≤ 3000 ∧ n % 100 = 0
    let inRange := (∀ n, q.address = some n → n = 0xFF ∨ (1 ≤ n ∧ n ≤ 60))
      ∧ (∀ n, q.span = some n → 100 ≤ n ∧ n ≤ 600) ∧ (∀ n, q.brake = some n → n ≤ 600) ∧ dead q.deadFR ∧ dead q.deadRF
      ∧ (∀ n, q.reverse = some n → n < 16)
    let taken := ∃ n, q.address = some n ∧ n ≠ 0xFF ∧ ∃ j, j ≠ i
      ∧ ((Table.at s.part.composer.slots j).settings.address = some n
          ∨ ∃ w, (Table.at s.part.composer.slots j).waiting = some w ∧ w.address = some n)
    let old := t.waiting.getD t.settings
    let new : SlotSettings := {
      address := match q.address with | some n => (if n = 0xFF then none else some n) | none => old.address,
      span := q.span.getD old.span, brake := q.brake.getD old.brake, deadFR := q.deadFR.getD old.deadFR,
      deadRF := q.deadRF.getD old.deadRF,
      reverse := match q.reverse with
        | some n => { throttle := n.testBit 0, coupler := n.testBit 1, lights := n.testBit 2, aux := n.testBit 3 }
        | none => old.reverse }
    let put := fun (u : Slot) => { s.part.composer with slots := Table.put s.part.composer.slots i u }
    (∀ extra < 4, exec (.ssl tag (q.slot :: b8 (maskOf fields + 64 * extra) :: writeFields sslSizes fields)) s
        = exec (.ssl tag (sslBody q)) s)
    ∧ (inRange → ¬ taken →
      (t.onAir = .offAir → exec (.ssl tag (sslBody q)) s = .next (s.replied 0x40 tag okReply { s.part with
        composer := put { t with settings := new, waiting := none },
        road := s.part.road.raise srcSlotApplied (subject i.val) }))
      ∧ (t.onAir ≠ .offAir → exec (.ssl tag (sslBody q)) s = .next (s.replied 0x40 tag okReply
          { s.part with composer := put { t with waiting := some new } })))
    ∧ (¬ inRange → refused .badVal)
    ∧ (inRange → taken → refused .inUse)

/-- SCH, KEY, RLS and SFP (R129, R137, R140). That a channel mode is sent as 0 STEERED or 1 FIXED is log entry 14, the model's
reading of R210. -/
def Obligations.SlotRequests : Prop :=
  (∀ (i : SlotId) (channel : Fin 4) (m : ChannelMode) (value : Nat) (tag : Byte) (s : State), Ready s → value < 65536 →
    let t := Table.at s.part.composer.slots i
    let req := Instr.sch tag ([b8 i.val, b8 channel.val, b8 (channelModeCode m)] ++ halfBytes value)
    let c : Channel := { mode := m, value := value }
    let channels : Channels := match channel with
      | 0 => { t.channels with throttle := c }
      | 1 => { t.channels with coupler := c }
      | 2 => { t.channels with lights := c }
      | 3 => { t.channels with aux := c }
    (800 ≤ value → value ≤ 2200 → exec req s = .next (s.replied 0x41 tag okReply { s.part with
      composer := { s.part.composer with slots := Table.put s.part.composer.slots i { t with channels := channels } } }))
    ∧ (value < 800 ∨ 2200 < value → exec req s = .next (s.replied 0x41 tag { status := .badVal, body := [] } s.part)))
  ∧ (∀ (i : SlotId) (tag : Byte) (s : State), Ready s →
    let t := Table.at s.part.composer.slots i
    let put := fun (u : Slot) =>
      { s.part with composer := { s.part.composer with slots := Table.put s.part.composer.slots i u } }
    exec (.key tag [b8 i.val]) s = .next (s.replied 0x42 tag okReply (put { t with keyed := true }))
    ∧ exec (.rls tag [b8 i.val]) s = .next (s.replied 0x43 tag okReply (put { t with keyed := false })))
  ∧ ∀ (ms tag : Byte) (s : State), Ready s →
    (ms.toNat ∈ [14, 18, 22, 30, 45] → exec (.sfp tag [ms]) s = .next (s.replied 0x45 tag okReply
      { s.part with composer := { s.part.composer with period := ms.toNat } }))
    ∧ (ms.toNat ∉ [14, 18, 22, 30, 45] →
        exec (.sfp tag [ms]) s = .next (s.replied 0x45 tag { status := .badVal, body := [] } s.part))

/-- FRAME_START (R101, R102, R130 to R136, R139 to R143): the interval it opens, each slot's on-air state, what a listed slot sends
on its four channels, its running direction and stop time, when its pending set applies, the air frame, and the convoys that have
answered. The words shaped, brakeThrottle, Slot.hold and Value.mapped are said by ThrottleIsShapedAndHeld, and a convoy's answer by
MembersFollowTheLead. The time of a frame start is log entry 11, the air address of a slot whose address has just become none a free
value (log entry 23), and that a notice starts at the end of the event log entry 4, the model's choices. -/
def Obligations.AFrameStartsOnTheAir : Prop :=
  ∀ s : State, Quiet s →
    let p := s.part
    let k := p.composer
    let period := if p.mode.mode = .park then 45 else k.period
    let now := k.frameTime + k.interval
    let answer := fun (v : Convoy) => if v.state.formed = true then (v.frame p.mode p.drivers period).2 else .neutral
    let rest : Throttle := { value := { us := 1500, composed := true }, cls := .stop }
    let steered := fun (i : SlotId) (t : Slot) =>
      match p.road.placeOf i with
      | none => rest
      | some (c, n) =>
        match answer (p.road.convoy c), (p.road.convoy c).halt.throttle with
        | .neutral, _ => rest
        | .percent each travel, _ => shaped t.settings.span (each[n]?.getD 0) travel
        | .halted, .brake => brakeThrottle t.settings.brake t.direction
        | .halted, .holdLast => (t.sent.map fun v =>
            ({ value := { us := v.throttle, composed := false }, cls := v.cls } : Throttle)).getD rest
        | .halted, _ => rest
    let fixed := fun (t : Slot) =>
      let us := t.channels.throttle.value
      let ahead : Bool := decide (1500 < us) != t.settings.reverse.throttle
      ({ value := { us := us, composed := false },
         cls := if us = 1500 then .stop else .drive (if ahead then .forward else .reverse) } : Throttle)
    let state := fun (i : SlotId) => (p.road.placeOf i).map fun e => (p.road.convoy e.1).state
    let moving := fun (i : SlotId) => state i = some (.plain .waiting) ∨ state i = some (.plain .running)
    let halted := fun (i : SlotId) => ∃ b, state i = some (.halted b)
    let lights := fun (i : SlotId) => (p.road.placeOf i).map fun e => (p.road.convoy e.1).halt.lights
    let horn := fun (i : SlotId) => ∃ c d, p.road.placeOf i = some (c, 0) ∧ (p.road.convoy c).source = .driver d
      ∧ (Table.at p.drivers.handsets d).horn = true
    let reversed := fun (flag : Bool) (us : Nat) => if flag then 3000 - us else us
    ∃ slots r frame, exec .frameStart s = .next (transmit { s with part := { p with
        composer := { k with slots := slots, interval := period, frameTime := now, airFrame := some frame },
        road := r, time := { p.time with frameDue := period } } })
      ∧ (∀ i,
          let t := Table.at k.slots i
          let u := Table.at slots i
          let released := ∃ c n, p.road.placeOf i = some (c, n) ∧ (p.road.convoy c).state.isHalted = true
            ∧ (p.road.convoy c).halt.throttle = .release
          let ready := t.keyed = true ∧ t.settings.address.isSome = true ∧ ¬ released
          (u.keyed = t.keyed ∧ u.channels = t.channels)
          ∧ (t.onAir = .offAir ∨ t.onAir = .onAir →
              (ready → p.parkHold = false → u.onAir = .onAir) ∧ (¬ ready ∨ p.parkHold = true → u.onAir = .offAir))
          ∧ (∀ n, t.onAir = .rundown n →
              (¬ ready → u.onAir = .offAir) ∧ (ready → p.parkHold = false → u.onAir = .onAir)
              ∧ (ready → p.parkHold = true → n = 0 → u.onAir = .offAir)
              ∧ (ready → p.parkHold = true → n ≠ 0 → u.onAir = .rundown (n - 1)))
          ∧ (u.onAir = .offAir → u = { t with
              onAir := .offAir, neutralSince := none, settings := t.waiting.getD t.settings, waiting := none })
          ∧ (u.onAir ≠ .offAir →
              let held := t.hold now
                (if u.onAir ≠ .onAir then rest else if t.channels.throttle.mode = .steered then steered i t else fixed t)
              let applies := t.waiting.isSome = true ∧ held.1.value.us = 1500
              let flags := u.settings.reverse
              let channels := t.channels
              ∃ v, u = { t with
                  onAir := u.onAir, direction := held.2.direction, neutralSince := held.2.neutralSince, sent := some v,
                  settings := if applies then t.waiting.getD t.settings else t.settings,
                  waiting := if applies then none else t.waiting }
                ∧ (v.throttle = if applies then 1500 else held.1.value.mapped flags.throttle)
                ∧ (v.cls = if applies then .stop else held.1.cls)
                ∧ (channels.coupler.mode = .steered → moving i ∨ halted i → v.coupler = reversed flags.coupler 1000)
                ∧ (channels.coupler.mode = .fixed ∨ (¬ moving i ∧ ¬ halted i) → v.coupler = channels.coupler.value)
                ∧ (channels.lights.mode = .steered → moving i → v.lights = reversed flags.lights 2000)
                ∧ (channels.lights.mode = .steered → halted i →
                    (lights i = some .hazard → v.lights = reversed flags.lights 1500)
                    ∧ (lights i = some .on → v.lights = reversed flags.lights 2000)
                    ∧ (lights i = some .off → v.lights = reversed flags.lights 1000)
                    ∧ (lights i = some .unchanged → v.lights = (t.sent.map Sent.lights).getD channels.lights.value))
                ∧ (channels.lights.mode = .fixed ∨ (¬ moving i ∧ ¬ halted i) → v.lights = channels.lights.value)
                ∧ (channels.aux.mode = .steered → horn i → v.aux = reversed flags.aux 2000)
                ∧ (channels.aux.mode = .fixed ∨ ¬ horn i → v.aux = channels.aux.value)
                ∧ ∀ a n, u.settings.address = some a → u.airBytes n
                    = b8 a :: (halfBytes v.throttle ++ halfBytes v.coupler ++ halfBytes v.lights ++ halfBytes v.aux)))
      ∧ frame = listB (fun i => (Table.at slots i).airBytes (24 * now + i.val))
          ((List.finRange 24).filter fun i => decide ((Table.at slots i).onAir ≠ .offAir))
      ∧ (∀ c, r.convoy c = if (p.road.convoy c).state.formed then ((p.road.convoy c).frame p.mode p.drivers period).1
                           else p.road.convoy c)
      ∧ r = { p.road with convoys := r.convoys, notices := r.notices }
      ∧ (∀ i, (Table.at k.slots i).waiting.isSome = true → (Table.at slots i).waiting = none →
          (Table.at r.notices.sources srcSlotApplied).pending = true
            ∧ (Table.at r.notices.sources srcSlotApplied).subjects.getLsbD i.val = true)
      ∧ ((∀ i, (Table.at k.slots i).waiting = none) → r.notices = p.road.notices)
      ∧ ∀ i, (p.road.placeOf i = none ↔ ∀ c, ∀ m ∈ (p.road.convoy c).members, m.slot ≠ i)
        ∧ ∀ c n, p.road.placeOf i = some (c, n) → ∃ m, (p.road.convoy c).members[n]? = some m ∧ m.slot = i

/-- The throttle of a slot (R131 to R134): a shaped percentage, the brake value, the dead-time hold, and the reverse map; a drive
value never follows one of the other direction before the dead time has been spent at rest. -/
def Obligations.ThrottleIsShapedAndHeld : Prop :=
  (∀ (span percent : Nat) (t : Travel),
    let offset := span * percent / 100
    (percent = 0 → shaped span percent t = { value := { us := 1500, composed := true }, cls := .stop })
    ∧ (percent ≠ 0 → shaped span percent t = { value := { us := match t with | .forward => 1500 + offset | .reverse => 1500 - offset,
                                                           composed := true }, cls := .drive t }))
  ∧ (∀ (depth : Nat) (d : Option Travel),
      brakeThrottle depth d = { value := { us := match d with | some .forward => 1500 - depth | some .reverse => 1500 + depth
                                                              | none => 1500, composed := true }, cls := .stop })
  ∧ (∀ (now : Nat) (v : Throttle) (t : Slot),
      let rest : Throttle := { value := { us := 1500, composed := true }, cls := .stop }
      let stopped := { t with neutralSince := some (t.neutralSince.getD now) }
      let rested := fun (dead : Nat) => ∃ since, t.neutralSince = some since ∧ dead ≤ now - since
      (v.cls = .stop → t.hold now v = (v, stopped))
      ∧ ∀ d, v.cls = .drive d →
        (t.direction = some d → t.hold now v = (v, { t with direction := some d, neutralSince := none }))
        ∧ (∀ dead, (t.direction = some .forward ∧ d = .reverse ∧ dead = t.settings.deadFR)
              ∨ (t.direction = some .reverse ∧ d = .forward ∧ dead = t.settings.deadRF)
              ∨ (t.direction = none ∧ dead = max t.settings.deadFR t.settings.deadRF) →
            (rested dead → t.hold now v = (v, { t with direction := some d, neutralSince := none }))
            ∧ (¬ rested dead → t.hold now v = (rest, stopped))))
  ∧ ∀ (v : Value) (reverse : Bool),
      v.mapped reverse = if v.composed = true ∧ reverse = true then 3000 - v.us else v.us

/-! ## Chapter 8: accessory lines -/

/-- SLN (R150, R151, R152, R155, R156, R210): each present field replaces the stored one; a line that becomes a FLASH line, or whose
period or gate changes, starts its phase afresh where its gate is true; and a rise of the level of a line that was and stays an INPUT
line with its wake flag set wakes a parked layout. That an SLN which repeats function, period and gate keeps the phase is log entry
27, the codes of direction, drive and function log entry 14, that a wake flag set in the same SLN makes no trigger log entry 42, and
that mask bits which name no field change nothing log entry 24, the model's readings. -/
def Obligations.SlnSetsALine : Prop :=
  ∀ (q : SlnReq) (i : LineId) (tag : Byte) (s : State), Ready s → q.line = b8 i.val →
    let fields := [q.direction, q.drive, q.function, q.invert, q.wake, q.period, q.gate]
    FieldsFit slnSizes fields →
    let l := s.part.road.line i
    let refused := fun (st : Status) =>
      exec (.sln tag (slnBody q)) s = .next (s.replied 0x48 tag { status := st, body := [] } s.part)
    let flag := fun (o : Option Nat) => ∀ n, o = some n → n ≤ 1
    let bit := fun (o : Option Nat) (old : Bool) => (o.map fun n => decide (n = 1)).getD old
    let inRange := flag q.direction ∧ flag q.drive
      ∧ (∀ n, q.function = some n → n / 256 ≤ 3 ∧ (n / 256 = 2 → n % 256 ≤ 7)) ∧ flag q.invert ∧ flag q.wake
      ∧ (∀ n, q.period = some n → n ∈ [500, 1000, 2000, 4000]) ∧ (∀ n, q.gate = some n → n ≤ 7)
    let new := { l with
      direction := (q.direction.bind lineDirectionOf?).getD l.direction, drive := (q.drive.bind driveOf?).getD l.drive,
      function := (q.function.bind fun n => lineFunctionOf? (n / 256) (n % 256)).getD l.function,
      invert := bit q.invert l.invert, wake := bit q.wake l.wake, flashPeriod := q.period.getD l.flashPeriod,
      flashGate := (q.gate.bind (index? 8)).getD l.flashGate }
    let named := ∃ k d j, (s.part.road.sect k).defn = some d ∧ d.junction = some j ∧ j.line = i
    let keeps := new.direction = .output ∧ new.function = .junction
    let fits := (new.direction = .input → new.function = .data) ∧ (new.direction = .output → new.wake = false)
    let same := new.function = l.function ∧ new.flashPeriod = l.flashPeriod ∧ new.flashGate = l.flashGate
    let phase := if s.part.parkHold = true ∨ new.function ≠ .flash then none
      else if same then l.flash
      else if (Table.at s.part.cells new.flashGate).output then some { phase := true, left := new.flashPeriod / 2 } else none
    let road := s.part.road.setLine i { new with flash := phase }
    let wakes := s.part.mode.mode = .park ∧ l.direction = .input ∧ l.wake = true ∧ new.direction = .input ∧ new.wake = true
      ∧ l.frozen = none ∧ (decide (l.wire = .high) != l.invert) = false ∧ (decide (l.wire = .high) != new.invert) = true
    (∀ extra < 2, exec (.sln tag (q.line :: b8 (maskOf fields + 128 * extra) :: writeFields slnSizes fields)) s
        = exec (.sln tag (slnBody q)) s)
    ∧ (inRange → (named → keeps) → fits → exec (.sln tag (slnBody q)) s = .next (s.replied 0x48 tag okReply
        (if wakes then { s.part with mode := { s.part.mode with mode := .hold, latch := true },
                                     road := (road.raise srcModeChanged 0).raise srcParkWake 0 }
         else { s.part with road := road })))
    ∧ (¬ inRange → refused .badVal)
    ∧ (inRange → named → ¬ keeps → refused .inUse)
    ∧ (inRange → (named → keeps) → ¬ fits → refused .badVal)

/-- WLN, LINE_PIN_CHANGE and FLASH_TOGGLE (R147, R151, R153, R156): the data is stored; the wire is followed, and a rise of an INPUT
line with its wake flag wakes a parked layout; and a due toggle turns a running phase over. The driven value of a line is given by
its function (R148); a driven line puts it on its pin through the invert flag and has it as its level, a frozen one its frozen value,
and any other drives nothing and reads its pin (R146, R155). That the wire of a driven line is followed too is log entry 12, that
FLASH_TOGGLE of a line without a phase changes nothing log entry 8, and that a notice starts at the end of the event log entry 4, the
model's choices. -/
def Obligations.LinesAreWrittenReadAndFlashed : Prop :=
  (∀ (i : LineId) (data tag : Byte) (s : State), Ready s →
    (data.toNat ≤ 1 → exec (.wln tag [b8 i.val, data]) s = .next (s.replied 0x49 tag okReply { s.part with
      road := s.part.road.setLine i { s.part.road.line i with data := decide (data = 1) } }))
    ∧ (1 < data.toNat →
        exec (.wln tag [b8 i.val, data]) s = .next (s.replied 0x49 tag { status := .badVal, body := [] } s.part)))
  ∧ (∀ (i : LineId) (pin : PinState) (s : State), Quiet s →
    let l := s.part.road.line i
    let road := s.part.road.setLine i { l with wire := pin }
    let level := fun (w : PinState) => decide (w = .high) != l.invert
    let wakes := l.direction = .input ∧ l.wake = true ∧ l.frozen = none ∧ level l.wire = false ∧ level pin = true
      ∧ s.part.mode.mode = .park
    exec (.linePinChange i pin) s = .next (transmit { s with
      part := if wakes then { s.part with mode := { s.part.mode with mode := .hold, latch := true },
                                          road := (road.raise srcModeChanged 0).raise srcParkWake 0 }
              else { s.part with road := road } }))
  ∧ (∀ (i : LineId) (s : State), s.resets.held = false →
    let l := s.part.road.line i
    exec (.flashToggle i) s = .next { s with part := { s.part with road := s.part.road.setLine i { l with
      flash := l.flash.map fun f => { phase := !f.phase, left := l.flashPeriod / 2 } } } })
  ∧ ∀ (hold : Bool) (cells : Table Cell 8) (l : Line),
    let value := l.drivenValue cells
    let gate := (Table.at cells l.flashGate).output
    let drives := l.direction = .output ∧ l.drive = .enabled ∧ hold = false
    (l.function = .data → value = l.data)
    ∧ (l.function = .junction → value = l.junction)
    ∧ (∀ k, l.function = .cell k → value = (Table.at cells k).output)
    ∧ (∀ f, l.function = .flash → gate = true → l.flash = some f → value = f.phase)
    ∧ (l.function = .flash → gate = false ∨ l.flash = none → value = l.data)
    ∧ (l.frozen = none → drives →
        l.level hold cells = value ∧ l.pinOut hold cells = some (if value = l.invert then .low else .high))
    ∧ (l.frozen = none → ¬ drives →
        l.pinOut hold cells = none ∧ (l.level hold cells = true ↔ l.wire = if l.invert then .low else .high))
    ∧ ∀ f, l.frozen = some f → l.level hold cells = f.level ∧ l.pinOut hold cells = some f.pin

/-! ## Chapter 9: the clock and the departures -/

/-- SCK, RCK and ADJ (R161, R162, R163). That RCK carries 0 for RUNNING and 1 for STOPPED is log entry 14, the model's reading of
R210. -/
def Obligations.ClockRequests : Prop :=
  (∀ (day hour minute second ratio tag : Byte) (s : State), Ready s →
    let inRange := 1 ≤ day.toNat ∧ day.toNat ≤ 7 ∧ hour.toNat ≤ 23 ∧ minute.toNat ≤ 59 ∧ second.toNat ≤ 59
      ∧ (ratio = 0xFF ∨ (1 ≤ ratio.toNat ∧ ratio.toNat ≤ 12))
    (inRange → exec (.sck tag [day, hour, minute, second, ratio]) s = .next (s.replied 0x50 tag okReply { s.part with
      clock := { s.part.clock with
        day := day.toNat, hour := hour.toNat, minute := minute.toNat, second := second.toNat, fraction := 0,
        ratio := if ratio = 0xFF then s.part.clock.ratio else ratio.toNat } }))
    ∧ (¬ inRange → exec (.sck tag [day, hour, minute, second, ratio]) s
        = .next (s.replied 0x50 tag { status := .badVal, body := [] } s.part)))
  ∧ (∀ (flag tag : Byte) (s : State), Ready s →
    (flag.toNat ≤ 1 → exec (.rck tag [flag]) s
      = .next (s.replied 0x51 tag okReply { s.part with clock := { s.part.clock with running := decide (flag = 0) } }))
    ∧ (1 < flag.toNat → exec (.rck tag [flag]) s = .next (s.replied 0x51 tag { status := .badVal, body := [] } s.part)))
  ∧ ∀ (tag : Byte) (s : State), Ready s →
    let k := { s.part.clock with second := 0, fraction := 0 }
    (s.part.clock.second < 30 → exec (.adj tag []) s = .next (s.replied 0x52 tag okReply { s.part with clock := k }))
    ∧ (30 ≤ s.part.clock.second →
        ∃ q, exec (.adj tag []) s = .next (s.replied 0x52 tag okReply q)
          ∧ MinuteChanged { s.part with clock := k.nextMinute } q)

/-- SDP (R172, R210). What counts as a change of day, hour, minute or action is log entry 27; mask bits that name no field change
nothing (log entry 24). -/
def Obligations.SdpSetsADeparture : Prop :=
  ∀ (q : SdpReq) (i : DepartureId) (tag : Byte) (s : State), Ready s → q.entry = b8 i.val →
    let fields := [q.enable, q.day, q.hour, q.minute, q.action, q.convoy, q.cruise, q.ramp,
                   if q.resetMissed then some 0 else none]
    FieldsFit sdpSizes fields →
    let e := Table.at s.part.departures i
    let inRange := (∀ n, q.enable = some n → n ≤ 1) ∧ (∀ n, q.day = some n → n = 0xFF ∨ (1 ≤ n ∧ n ≤ 7))
      ∧ (∀ n, q.hour = some n → n = 0xFF ∨ n ≤ 23) ∧ (∀ n, q.minute = some n → n = 0xFF ∨ n ≤ 59)
      ∧ (∀ n, q.action = some n → n ≤ 3) ∧ (∀ n, q.convoy = some n → n = 0xFF ∨ n ≤ 7)
      ∧ (∀ n, q.cruise = some n → n ≤ 100) ∧ (∀ n, q.ramp = some n → 1 ≤ n ∧ n ≤ 20)
    let openField := fun (o : Option Nat) (old : Option Nat) =>
      match o with | some n => (if n = 0xFF then none else some n) | none => old
    let new := { e with
      enabled := (q.enable.map fun n => decide (n = 1)).getD e.enabled, day := openField q.day e.day,
      hour := openField q.hour e.hour, minute := openField q.minute e.minute,
      action := (q.action.bind departureActionOf?).getD e.action,
      convoy := match q.convoy with | some n => index? 8 n | none => e.convoy,
      cruise := q.cruise.getD e.cruise, ramp := q.ramp.getD e.ramp }
    let moved := new.day ≠ e.day ∨ new.hour ≠ e.hour ∨ new.minute ≠ e.minute ∨ new.action ≠ e.action
    let stored := { new with fired := if moved then false else e.fired, missed := if q.resetMissed then 0 else e.missed }
    let fits := new.action = .start ↔ new.convoy.isSome = true
    (∀ extra < 128, exec (.sdp tag (q.entry :: (halfBytes (maskOf fields + 512 * extra) ++ writeFields sdpSizes fields))) s
        = exec (.sdp tag (sdpBody q)) s)
    ∧ (inRange → fits → exec (.sdp tag (sdpBody q)) s = .next (s.replied 0x54 tag okReply
      { s.part with departures := Table.put s.part.departures i stored }))
    ∧ (¬ inRange ∨ ¬ fits → exec (.sdp tag (sdpBody q)) s
        = .next (s.replied 0x54 tag { status := .badVal, body := [] } s.part))

/-- SCALE_SECOND (R158, R159, R164, R166 to R170): where the clock runs and the millisecond under way brings the fraction to 1000, a
second passes, and the sixtieth is a minute change, which examines the departures. That the fraction counts the millisecond under
way is log entry 10, that nothing happens where no second is due log entry 8, and that a notice starts at the end of the event log
entry 4, the model's choices. An entry that fires is told;
SIGNAL does no more, WAKE is a wake trigger, RESUME leaves HOLD for RUN, and START sets its convoy under the timetable and starts it,
or is missed. -/
def Obligations.ASecondPasses : Prop :=
  (∀ s : State, Quiet s →
    let k := s.part.clock
    let due := k.running = true ∧ 1000 ≤ k.fraction + k.ratio
    let left := k.fraction + k.ratio - 1000
    (¬ due → exec .scaleSecond s = .next (transmit s))
    ∧ (due → k.second ≠ 59 → exec .scaleSecond s = .next (transmit { s with part := { s.part with
        clock := { k with second := k.second + 1, fraction := left } } }))
    ∧ (due → k.second = 59 →
        ∃ q, exec .scaleSecond s = .next (transmit { s with part := q })
          ∧ MinuteChanged { s.part with clock := ({ k with second := 0, fraction := left } : LayoutClock).nextMinute } q))
  ∧ (∀ (k : LayoutClock) (e : Departure), e.due k = true ↔ e.matches k)
  ∧ (∀ v : Convoy, v.departs = true ↔ v.state = .plain .standing ∧ v.lead = 0 ∧ 1 < v.route.length
      ∧ ∀ n t, 0 < n → v.route[n]? = some t → t.status ≠ .settling ∧ t.status ≠ .held)
  ∧ ∀ (i : DepartureId) (p : Part),
    let e := Table.at p.departures i
    let told := { p with departures := Table.put p.departures i { e with fired := true },
                         road := p.road.raise srcDepartureFired (subject i.val) }
    (e.action = .signal → fireDeparture i p = told)
    ∧ (e.action = .wake → fireDeparture i p
        = if p.mode.mode = .park then { told with
            mode := { p.mode with mode := .hold, latch := true },
            road := (told.road.raise srcModeChanged 0).raise srcParkWake 0 } else told)
    ∧ (e.action = .resume → fireDeparture i p
        = if p.mode.mode = .hold then { told with
            mode := { p.mode with mode := .run }, road := told.road.raise srcModeChanged 0 } else told)
    ∧ (e.action = .start → (¬ p.honours e → fireDeparture i p = { told with
          departures := Table.put p.departures i { e with fired := true, missed := countUp 255 e.missed },
          road := told.road.raise srcDepartureMissed (subject i.val) })
        ∧ ∀ c, e.convoy = some c → p.honours e → fireDeparture i p = { told with
            road := reviewHalts p.cells p.drivers (ask c 1 (told.road.setConvoy c { p.road.convoy c with
              state := .plain .waiting, source := .timetable, cruise := e.cruise, ramp := e.ramp, ttDemand := 0 })) })

/-! ## Chapter 10: the layout mode -/

/-- MOD, SMO and PRL (R143, R155, R176, R177, R180 to R184, R210): the modes that may follow one another, park entry with what it
freezes and runs down, the park latch, and the end of the hold. Every reply to MOD carries the mode and the latch, that to a code
above 3 as well. That SMO sends driver wake as 1 for on is log entry 14, and that its mask bits which name no field change nothing
log entry 24, the model's readings. -/
def Obligations.ModeRequests : Prop :=
  (∀ (m : Mode) (tag : Byte) (s : State), Ready s →
    let p := s.part
    let replied := fun (st : Status) (p : Part) =>
      exec (.mod tag [b8 (modeCode m)]) s = .next (s.replied 0x58 tag
        { status := st, body := [b8 (modeCode p.mode.mode), flagB p.mode.latch] } p)
    let mayFollow := (m ≠ .park ∧ m ≠ p.mode.mode ∧ (p.mode.mode = .park → m = .hold)) ∨ (m = .park ∧ p.mode.mode = .hold)
    let active := Table.numbers p.road.convoys fun v =>
      decide (v.state.base? = some .waiting) || decide (v.state.base? = some .running)
    let changed := { p with mode := { p.mode with mode := m, latch := p.mode.latch || decide (p.mode.mode = .park) },
                            road := p.road.raise srcModeChanged 0 }
    let frozen := fun (l : Line) => match l.frozen with
      | some f => some f
      | none => if p.parkHold = false ∧ l.direction = .output ∧ l.drive = .enabled
                then some { pin := pinOf l.invert (l.drivenValue p.cells), level := l.drivenValue p.cells } else none
    let parked := fun (l : Line) => { l with frozen := frozen l, flash := none }
    let rundown := fun (t : Slot) => if t.onAir = .onAir then { t with onAir := .rundown 3 } else t
    (p.mode.mode = m → replied .ok p)
    ∧ (p.mode.mode ≠ m → ¬ mayFollow → replied .badMode p)
    ∧ (mayFollow → m ≠ .park → replied .ok changed)
    ∧ (m = .park → p.mode.mode = .hold → active = [] → replied .ok { changed with
        composer := { p.composer with slots := Table.mapAll (fun _ t => rundown t) p.composer.slots },
        road := { changed.road with lines := Table.mapAll (fun _ l => parked l) p.road.lines } })
    ∧ (m = .park → p.mode.mode = .hold → active ≠ [] →
        let listed := b8 active.length :: active.map fun c => b8 c.val
        exec (.mod tag [b8 (modeCode m)]) s = .next (s.replied 0x58 tag
          { status := .badState, body := [b8 (modeCode p.mode.mode), flagB p.mode.latch] ++ listed } p)))
  ∧ (∀ (code tag : Byte) (s : State), Ready s → 3 < code.toNat →
    exec (.mod tag [code]) s = .next (s.replied 0x58 tag
      { status := .badVal, body := [b8 (modeCode s.part.mode.mode), flagB s.part.mode.latch] } s.part))
  ∧ (∀ (q : SmoReq) (tag : Byte) (s : State), Ready s →
    let fields := [q.slowLimit, q.holdCell, q.driverWake]
    FieldsFit smoSizes fields →
    let k := s.part.mode
    let inRange := (∀ n, q.slowLimit = some n → 5 ≤ n ∧ n ≤ 60) ∧ (∀ n, q.holdCell = some n → n = 0xFF ∨ n ≤ 7)
      ∧ (∀ n, q.driverWake = some n → n ≤ 1)
    (∀ extra < 32, exec (.smo tag (b8 (maskOf fields + 8 * extra) :: writeFields smoSizes fields)) s
        = exec (.smo tag (smoBody q)) s)
    ∧ (inRange → exec (.smo tag (smoBody q)) s = .next (s.replied 0x59 tag okReply { s.part with mode := { k with
      slowLimit := q.slowLimit.getD k.slowLimit,
      holdCell := match q.holdCell with | some n => index? 8 n | none => k.holdCell,
      driverWake := (q.driverWake.map fun n => decide (n = 1)).getD k.driverWake } }))
    ∧ (¬ inRange → exec (.smo tag (smoBody q)) s = .next (s.replied 0x59 tag { status := .badVal, body := [] } s.part)))
  ∧ ∀ (tag : Byte) (s : State), Ready s →
    let p := s.part
    let thawed := fun (l : Line) => { l with
      frozen := none,
      flash := if l.function = .flash ∧ (Table.at p.cells l.flashGate).output = true
               then some { phase := true, left := l.flashPeriod / 2 } else none }
    (p.mode.mode = .park → exec (.prl tag []) s = .next (s.replied 0x5A tag { status := .badMode, body := [] } p))
    ∧ (p.mode.mode ≠ .park → p.mode.latch = false → exec (.prl tag []) s = .next (s.replied 0x5A tag okReply p))
    ∧ (p.mode.mode ≠ .park → p.mode.latch = true → exec (.prl tag []) s = .next (s.replied 0x5A tag okReply { p with
        mode := { p.mode with latch := false },
        road := { p.road with lines := Table.mapAll (fun _ l => thawed l) p.road.lines } }))
end

