-- ==== Sys2Proof/Laws/Tables.lean ====
section
/-! SUPPORT. What the operations on tables of records do, record by record. -/

namespace Sys2Proof

variable {α β : Type} {n : Nat}

@[simp] theorem Table.at_put_self (t : Table α n) (i : Fin n) (a : α) : Table.at (Table.put t i a) i = a := by
  simp [Table.at, Table.put]

theorem Table.at_put (t : Table α n) (i j : Fin n) (a : α) :
    Table.at (Table.put t i a) j = if j = i then a else Table.at t j := by
  by_cases h : j = i
  · subst h; simp
  · have h' : i.val ≠ j.val := fun e => h (Fin.ext e.symm)
    simp [Table.at, Table.put, h, h']

@[simp] theorem Table.at_put_other (t : Table α n) {i j : Fin n} (h : j ≠ i) (a : α) :
    Table.at (Table.put t i a) j = Table.at t j := by
  simp [Table.at_put, h]

@[simp] theorem Table.at_upd_self (t : Table α n) (i : Fin n) (f : α → α) :
    Table.at (Table.upd t i f) i = f (Table.at t i) := by
  simp [Table.upd]

theorem Table.at_upd (t : Table α n) (i j : Fin n) (f : α → α) :
    Table.at (Table.upd t i f) j = if j = i then f (Table.at t j) else Table.at t j := by
  unfold Table.upd
  by_cases h : j = i
  · subst h; simp
  · simp [h]

@[simp] theorem Table.at_upd_other (t : Table α n) {i j : Fin n} (h : j ≠ i) (f : α → α) :
    Table.at (Table.upd t i f) j = Table.at t j := by
  simp [Table.at_upd, h]

@[simp] theorem Table.at_mapAll (f : Fin n → α → β) (t : Table α n) (i : Fin n) :
    Table.at (Table.mapAll f t) i = f i (Table.at t i) := by
  simp [Table.at, Table.mapAll]

@[simp] theorem Table.at_all (a : α) (i : Fin n) : Table.at (Table.all a : Table α n) i = a := by
  simp [Table.at, Table.all]

/-- Tables with equal records are equal. -/
theorem Table.ext {s t : Table α n} (h : ∀ i, Table.at s i = Table.at t i) : s = t := by
  apply Vector.ext
  intro i hi
  exact h ⟨i, hi⟩

@[simp] theorem Table.put_at (t : Table α n) (i : Fin n) : Table.put t i (Table.at t i) = t := by
  apply Table.ext
  intro j
  by_cases h : j = i
  · subst h; simp
  · simp [h]

@[simp] theorem Table.put_put (t : Table α n) (i : Fin n) (a b : α) : Table.put (Table.put t i a) i b = Table.put t i b := by
  apply Table.ext
  intro j
  by_cases h : j = i
  · subst h; simp
  · simp [h]

theorem Table.mem_numbers (t : Table α n) (f : α → Bool) (i : Fin n) : i ∈ Table.numbers t f ↔ f (Table.at t i) = true := by
  simp [Table.numbers]

theorem Table.mem_entries (t : Table α n) (e : Fin n × α) : e ∈ Table.entries t ↔ e.2 = Table.at t e.1 := by
  cases e with
  | mk i a =>
    simp only [Table.entries, List.mem_map, List.mem_finRange, true_and, Prod.mk.injEq]
    constructor
    · rintro ⟨j, rfl, rfl⟩; rfl
    · rintro rfl; exact ⟨i, rfl, rfl⟩

/-- The index of a number in range is that number. -/
theorem index?_of_lt {n k : Nat} (h : k < n) : index? n k = some ⟨k, h⟩ := by simp [index?, h]

@[simp] theorem index?_val {n : Nat} (i : Fin n) : index? n i.val = some i := by simp [index?]

theorem index?_none {n k : Nat} (h : n ≤ k) : index? n k = none := by simp [index?, Nat.not_lt.mpr h]

end Sys2Proof
end

