-- ==== Sys2Proof/Laws/State.lean ====
section
/-! SUPPORT. One lemma per field per update of the state, true by rfl. -/

namespace Sys2Proof.Machine

/-! ## State.onLink -/

@[simp] theorem State.onLink_pending (f : LinkPort → LinkPort) (s : State) : (s.onLink f).pending = s.pending := rfl
@[simp] theorem State.onLink_resets (f : LinkPort → LinkPort) (s : State) : (s.onLink f).resets = s.resets := rfl
@[simp] theorem State.onLink_link (f : LinkPort → LinkPort) (s : State) : (s.onLink f).link = f s.link := rfl
@[simp] theorem State.onLink_part (f : LinkPort → LinkPort) (s : State) : (s.onLink f).part = s.part := rfl

/-! ## State.onPart -/

@[simp] theorem State.onPart_pending (f : Part → Part) (s : State) : (s.onPart f).pending = s.pending := rfl
@[simp] theorem State.onPart_resets (f : Part → Part) (s : State) : (s.onPart f).resets = s.resets := rfl
@[simp] theorem State.onPart_link (f : Part → Part) (s : State) : (s.onPart f).link = s.link := rfl
@[simp] theorem State.onPart_part (f : Part → Part) (s : State) : (s.onPart f).part = f s.part := rfl

/-! ## State.raise -/

@[simp] theorem State.raise_pending (src : SourceId) (s : State) : (s.raise src).pending = s.pending := rfl
@[simp] theorem State.raise_resets (src : SourceId) (s : State) : (s.raise src).resets = s.resets := rfl
@[simp] theorem State.raise_link (src : SourceId) (s : State) : (s.raise src).link = s.link := rfl
@[simp] theorem State.raise_part (src : SourceId) (s : State) : (s.raise src).part = s.part.onRoad (Road.raise src 0) := rfl

/-! ## State.replied -/

@[simp] theorem State.replied_pending (k tag : Byte) (r : Reply) (p : Part) (s : State) : (s.replied k tag r p).pending = s.pending := rfl
@[simp] theorem State.replied_resets (k tag : Byte) (r : Reply) (p : Part) (s : State) : (s.replied k tag r p).resets = s.resets := rfl
@[simp] theorem State.replied_part (k tag : Byte) (r : Reply) (p : Part) (s : State) : (s.replied k tag r p).part = p := rfl

/-! ## Part.onRoad -/

@[simp] theorem Part.onRoad_markers (f : Road → Road) (p : Part) : (p.onRoad f).markers = p.markers := rfl
@[simp] theorem Part.onRoad_road (f : Road → Road) (p : Part) : (p.onRoad f).road = f p.road := rfl
@[simp] theorem Part.onRoad_drivers (f : Road → Road) (p : Part) : (p.onRoad f).drivers = p.drivers := rfl
@[simp] theorem Part.onRoad_cells (f : Road → Road) (p : Part) : (p.onRoad f).cells = p.cells := rfl
@[simp] theorem Part.onRoad_pulses (f : Road → Road) (p : Part) : (p.onRoad f).pulses = p.pulses := rfl
@[simp] theorem Part.onRoad_composer (f : Road → Road) (p : Part) : (p.onRoad f).composer = p.composer := rfl
@[simp] theorem Part.onRoad_clock (f : Road → Road) (p : Part) : (p.onRoad f).clock = p.clock := rfl
@[simp] theorem Part.onRoad_departures (f : Road → Road) (p : Part) : (p.onRoad f).departures = p.departures := rfl
@[simp] theorem Part.onRoad_mode (f : Road → Road) (p : Part) : (p.onRoad f).mode = p.mode := rfl
@[simp] theorem Part.onRoad_time (f : Road → Road) (p : Part) : (p.onRoad f).time = p.time := rfl

/-! ## Part.onNotices -/

@[simp] theorem Part.onNotices_markers (f : NoticeControl → NoticeControl) (p : Part) : (p.onNotices f).markers = p.markers := rfl
@[simp] theorem Part.onNotices_road (f : NoticeControl → NoticeControl) (p : Part) : (p.onNotices f).road = { p.road with notices := f p.road.notices } := rfl
@[simp] theorem Part.onNotices_drivers (f : NoticeControl → NoticeControl) (p : Part) : (p.onNotices f).drivers = p.drivers := rfl
@[simp] theorem Part.onNotices_cells (f : NoticeControl → NoticeControl) (p : Part) : (p.onNotices f).cells = p.cells := rfl
@[simp] theorem Part.onNotices_pulses (f : NoticeControl → NoticeControl) (p : Part) : (p.onNotices f).pulses = p.pulses := rfl
@[simp] theorem Part.onNotices_composer (f : NoticeControl → NoticeControl) (p : Part) : (p.onNotices f).composer = p.composer := rfl
@[simp] theorem Part.onNotices_clock (f : NoticeControl → NoticeControl) (p : Part) : (p.onNotices f).clock = p.clock := rfl
@[simp] theorem Part.onNotices_departures (f : NoticeControl → NoticeControl) (p : Part) : (p.onNotices f).departures = p.departures := rfl
@[simp] theorem Part.onNotices_mode (f : NoticeControl → NoticeControl) (p : Part) : (p.onNotices f).mode = p.mode := rfl
@[simp] theorem Part.onNotices_time (f : NoticeControl → NoticeControl) (p : Part) : (p.onNotices f).time = p.time := rfl

/-! ## Part.setSlot -/

@[simp] theorem Part.setSlot_markers (p : Part) (i : SlotId) (t : Slot) : (p.setSlot i t).markers = p.markers := rfl
@[simp] theorem Part.setSlot_road (p : Part) (i : SlotId) (t : Slot) : (p.setSlot i t).road = p.road := rfl
@[simp] theorem Part.setSlot_drivers (p : Part) (i : SlotId) (t : Slot) : (p.setSlot i t).drivers = p.drivers := rfl
@[simp] theorem Part.setSlot_cells (p : Part) (i : SlotId) (t : Slot) : (p.setSlot i t).cells = p.cells := rfl
@[simp] theorem Part.setSlot_pulses (p : Part) (i : SlotId) (t : Slot) : (p.setSlot i t).pulses = p.pulses := rfl
@[simp] theorem Part.setSlot_composer (p : Part) (i : SlotId) (t : Slot) : (p.setSlot i t).composer = { p.composer with slots := Table.put p.composer.slots i t } := rfl
@[simp] theorem Part.setSlot_clock (p : Part) (i : SlotId) (t : Slot) : (p.setSlot i t).clock = p.clock := rfl
@[simp] theorem Part.setSlot_departures (p : Part) (i : SlotId) (t : Slot) : (p.setSlot i t).departures = p.departures := rfl
@[simp] theorem Part.setSlot_mode (p : Part) (i : SlotId) (t : Slot) : (p.setSlot i t).mode = p.mode := rfl
@[simp] theorem Part.setSlot_time (p : Part) (i : SlotId) (t : Slot) : (p.setSlot i t).time = p.time := rfl

/-! ## Part.setLine -/

@[simp] theorem Part.setLine_markers (p : Part) (l : LineId) (v : Line) : (p.setLine l v).markers = p.markers := rfl
@[simp] theorem Part.setLine_road (p : Part) (l : LineId) (v : Line) : (p.setLine l v).road = p.road.setLine l v := rfl
@[simp] theorem Part.setLine_drivers (p : Part) (l : LineId) (v : Line) : (p.setLine l v).drivers = p.drivers := rfl
@[simp] theorem Part.setLine_cells (p : Part) (l : LineId) (v : Line) : (p.setLine l v).cells = p.cells := rfl
@[simp] theorem Part.setLine_pulses (p : Part) (l : LineId) (v : Line) : (p.setLine l v).pulses = p.pulses := rfl
@[simp] theorem Part.setLine_composer (p : Part) (l : LineId) (v : Line) : (p.setLine l v).composer = p.composer := rfl
@[simp] theorem Part.setLine_clock (p : Part) (l : LineId) (v : Line) : (p.setLine l v).clock = p.clock := rfl
@[simp] theorem Part.setLine_departures (p : Part) (l : LineId) (v : Line) : (p.setLine l v).departures = p.departures := rfl
@[simp] theorem Part.setLine_mode (p : Part) (l : LineId) (v : Line) : (p.setLine l v).mode = p.mode := rfl
@[simp] theorem Part.setLine_time (p : Part) (l : LineId) (v : Line) : (p.setLine l v).time = p.time := rfl

/-! ## Part.reviewHalts -/

@[simp] theorem Part.reviewHalts_markers (p : Part) : (p.reviewHalts).markers = p.markers := Part.onRoad_markers _ _
@[simp] theorem Part.reviewHalts_road (p : Part) :
    (p.reviewHalts).road = Machine.reviewHalts p.cells p.drivers p.road := Part.onRoad_road _ _
@[simp] theorem Part.reviewHalts_drivers (p : Part) : (p.reviewHalts).drivers = p.drivers := Part.onRoad_drivers _ _
@[simp] theorem Part.reviewHalts_cells (p : Part) : (p.reviewHalts).cells = p.cells := Part.onRoad_cells _ _
@[simp] theorem Part.reviewHalts_pulses (p : Part) : (p.reviewHalts).pulses = p.pulses := Part.onRoad_pulses _ _
@[simp] theorem Part.reviewHalts_composer (p : Part) : (p.reviewHalts).composer = p.composer := Part.onRoad_composer _ _
@[simp] theorem Part.reviewHalts_clock (p : Part) : (p.reviewHalts).clock = p.clock := Part.onRoad_clock _ _
@[simp] theorem Part.reviewHalts_departures (p : Part) : (p.reviewHalts).departures = p.departures := Part.onRoad_departures _ _
@[simp] theorem Part.reviewHalts_mode (p : Part) : (p.reviewHalts).mode = p.mode := Part.onRoad_mode _ _
@[simp] theorem Part.reviewHalts_time (p : Part) : (p.reviewHalts).time = p.time := Part.onRoad_time _ _

/-! ## changeMode -/

@[simp] theorem changeMode_markers (m : Mode) (p : Part) : (changeMode m p).markers = p.markers := rfl
@[simp] theorem changeMode_road (m : Mode) (p : Part) : (changeMode m p).road = p.road.raise srcModeChanged 0 := rfl
@[simp] theorem changeMode_drivers (m : Mode) (p : Part) : (changeMode m p).drivers = p.drivers := rfl
@[simp] theorem changeMode_cells (m : Mode) (p : Part) : (changeMode m p).cells = p.cells := rfl
@[simp] theorem changeMode_pulses (m : Mode) (p : Part) : (changeMode m p).pulses = p.pulses := rfl
@[simp] theorem changeMode_composer (m : Mode) (p : Part) : (changeMode m p).composer = p.composer := rfl
@[simp] theorem changeMode_clock (m : Mode) (p : Part) : (changeMode m p).clock = p.clock := rfl
@[simp] theorem changeMode_departures (m : Mode) (p : Part) : (changeMode m p).departures = p.departures := rfl
@[simp] theorem changeMode_mode (m : Mode) (p : Part) : (changeMode m p).mode = p.mode.to m := rfl
@[simp] theorem changeMode_time (m : Mode) (p : Part) : (changeMode m p).time = p.time := rfl

/-! ## Road.setSect -/

@[simp] theorem Road.setSect_sections (r : Road) (i : SectionId) (v : Section) : (r.setSect i v).sections = Table.put r.sections i v := rfl
@[simp] theorem Road.setSect_requests (r : Road) (i : SectionId) (v : Section) : (r.setSect i v).requests = r.requests := rfl
@[simp] theorem Road.setSect_arrivals (r : Road) (i : SectionId) (v : Section) : (r.setSect i v).arrivals = r.arrivals := rfl
@[simp] theorem Road.setSect_promotions (r : Road) (i : SectionId) (v : Section) : (r.setSect i v).promotions = r.promotions := rfl
@[simp] theorem Road.setSect_settling (r : Road) (i : SectionId) (v : Section) : (r.setSect i v).settling = r.settling := rfl
@[simp] theorem Road.setSect_convoys (r : Road) (i : SectionId) (v : Section) : (r.setSect i v).convoys = r.convoys := rfl
@[simp] theorem Road.setSect_lines (r : Road) (i : SectionId) (v : Section) : (r.setSect i v).lines = r.lines := rfl
@[simp] theorem Road.setSect_notices (r : Road) (i : SectionId) (v : Section) : (r.setSect i v).notices = r.notices := rfl

/-! ## Road.setConvoy -/

@[simp] theorem Road.setConvoy_sections (r : Road) (c : ConvoyId) (v : Convoy) : (r.setConvoy c v).sections = r.sections := rfl
@[simp] theorem Road.setConvoy_requests (r : Road) (c : ConvoyId) (v : Convoy) : (r.setConvoy c v).requests = r.requests := rfl
@[simp] theorem Road.setConvoy_arrivals (r : Road) (c : ConvoyId) (v : Convoy) : (r.setConvoy c v).arrivals = r.arrivals := rfl
@[simp] theorem Road.setConvoy_promotions (r : Road) (c : ConvoyId) (v : Convoy) : (r.setConvoy c v).promotions = r.promotions := rfl
@[simp] theorem Road.setConvoy_settling (r : Road) (c : ConvoyId) (v : Convoy) : (r.setConvoy c v).settling = r.settling := rfl
@[simp] theorem Road.setConvoy_convoys (r : Road) (c : ConvoyId) (v : Convoy) : (r.setConvoy c v).convoys = Table.put r.convoys c v := rfl
@[simp] theorem Road.setConvoy_lines (r : Road) (c : ConvoyId) (v : Convoy) : (r.setConvoy c v).lines = r.lines := rfl
@[simp] theorem Road.setConvoy_notices (r : Road) (c : ConvoyId) (v : Convoy) : (r.setConvoy c v).notices = r.notices := rfl

/-! ## Road.setLine -/

@[simp] theorem Road.setLine_sections (r : Road) (l : LineId) (v : Line) : (r.setLine l v).sections = r.sections := rfl
@[simp] theorem Road.setLine_requests (r : Road) (l : LineId) (v : Line) : (r.setLine l v).requests = r.requests := rfl
@[simp] theorem Road.setLine_arrivals (r : Road) (l : LineId) (v : Line) : (r.setLine l v).arrivals = r.arrivals := rfl
@[simp] theorem Road.setLine_promotions (r : Road) (l : LineId) (v : Line) : (r.setLine l v).promotions = r.promotions := rfl
@[simp] theorem Road.setLine_settling (r : Road) (l : LineId) (v : Line) : (r.setLine l v).settling = r.settling := rfl
@[simp] theorem Road.setLine_convoys (r : Road) (l : LineId) (v : Line) : (r.setLine l v).convoys = r.convoys := rfl
@[simp] theorem Road.setLine_lines (r : Road) (l : LineId) (v : Line) : (r.setLine l v).lines = Table.put r.lines l v := rfl
@[simp] theorem Road.setLine_notices (r : Road) (l : LineId) (v : Line) : (r.setLine l v).notices = r.notices := rfl

/-! ## Road.setRequest -/

@[simp] theorem Road.setRequest_sections (r : Road) (c : ConvoyId) (v : Option GroupRequest) : (r.setRequest c v).sections = r.sections := rfl
@[simp] theorem Road.setRequest_requests (r : Road) (c : ConvoyId) (v : Option GroupRequest) : (r.setRequest c v).requests = Table.put r.requests c v := rfl
@[simp] theorem Road.setRequest_arrivals (r : Road) (c : ConvoyId) (v : Option GroupRequest) : (r.setRequest c v).arrivals = r.arrivals := rfl
@[simp] theorem Road.setRequest_promotions (r : Road) (c : ConvoyId) (v : Option GroupRequest) : (r.setRequest c v).promotions = r.promotions := rfl
@[simp] theorem Road.setRequest_settling (r : Road) (c : ConvoyId) (v : Option GroupRequest) : (r.setRequest c v).settling = r.settling := rfl
@[simp] theorem Road.setRequest_convoys (r : Road) (c : ConvoyId) (v : Option GroupRequest) : (r.setRequest c v).convoys = r.convoys := rfl
@[simp] theorem Road.setRequest_lines (r : Road) (c : ConvoyId) (v : Option GroupRequest) : (r.setRequest c v).lines = r.lines := rfl
@[simp] theorem Road.setRequest_notices (r : Road) (c : ConvoyId) (v : Option GroupRequest) : (r.setRequest c v).notices = r.notices := rfl

/-! ## Road.raise -/

@[simp] theorem Road.raise_sections (r : Road) (src : SourceId) (u : BitVec 64) : (r.raise src u).sections = r.sections := rfl
@[simp] theorem Road.raise_requests (r : Road) (src : SourceId) (u : BitVec 64) : (r.raise src u).requests = r.requests := rfl
@[simp] theorem Road.raise_arrivals (r : Road) (src : SourceId) (u : BitVec 64) : (r.raise src u).arrivals = r.arrivals := rfl
@[simp] theorem Road.raise_promotions (r : Road) (src : SourceId) (u : BitVec 64) : (r.raise src u).promotions = r.promotions := rfl
@[simp] theorem Road.raise_settling (r : Road) (src : SourceId) (u : BitVec 64) : (r.raise src u).settling = r.settling := rfl
@[simp] theorem Road.raise_convoys (r : Road) (src : SourceId) (u : BitVec 64) : (r.raise src u).convoys = r.convoys := rfl
@[simp] theorem Road.raise_lines (r : Road) (src : SourceId) (u : BitVec 64) : (r.raise src u).lines = r.lines := rfl
@[simp] theorem Road.raise_notices (r : Road) (src : SourceId) (u : BitVec 64) : (r.raise src u).notices = r.notices.raise src u := rfl

/-! ## Road.updConvoy -/

@[simp] theorem Road.updConvoy_sections (r : Road) (c : ConvoyId) (f : Convoy → Convoy) : (r.updConvoy c f).sections = r.sections := rfl
@[simp] theorem Road.updConvoy_requests (r : Road) (c : ConvoyId) (f : Convoy → Convoy) : (r.updConvoy c f).requests = r.requests := rfl
@[simp] theorem Road.updConvoy_arrivals (r : Road) (c : ConvoyId) (f : Convoy → Convoy) : (r.updConvoy c f).arrivals = r.arrivals := rfl
@[simp] theorem Road.updConvoy_promotions (r : Road) (c : ConvoyId) (f : Convoy → Convoy) : (r.updConvoy c f).promotions = r.promotions := rfl
@[simp] theorem Road.updConvoy_settling (r : Road) (c : ConvoyId) (f : Convoy → Convoy) : (r.updConvoy c f).settling = r.settling := rfl
@[simp] theorem Road.updConvoy_convoys (r : Road) (c : ConvoyId) (f : Convoy → Convoy) : (r.updConvoy c f).convoys = Table.put r.convoys c (f (r.convoy c)) := rfl
@[simp] theorem Road.updConvoy_lines (r : Road) (c : ConvoyId) (f : Convoy → Convoy) : (r.updConvoy c f).lines = r.lines := rfl
@[simp] theorem Road.updConvoy_notices (r : Road) (c : ConvoyId) (f : Convoy → Convoy) : (r.updConvoy c f).notices = r.notices := rfl

/-! ## Road.mapLines -/

@[simp] theorem Road.mapLines_sections (r : Road) (f : Line → Line) : (r.mapLines f).sections = r.sections := rfl
@[simp] theorem Road.mapLines_requests (r : Road) (f : Line → Line) : (r.mapLines f).requests = r.requests := rfl
@[simp] theorem Road.mapLines_arrivals (r : Road) (f : Line → Line) : (r.mapLines f).arrivals = r.arrivals := rfl
@[simp] theorem Road.mapLines_promotions (r : Road) (f : Line → Line) : (r.mapLines f).promotions = r.promotions := rfl
@[simp] theorem Road.mapLines_settling (r : Road) (f : Line → Line) : (r.mapLines f).settling = r.settling := rfl
@[simp] theorem Road.mapLines_convoys (r : Road) (f : Line → Line) : (r.mapLines f).convoys = r.convoys := rfl
@[simp] theorem Road.mapLines_lines (r : Road) (f : Line → Line) : (r.mapLines f).lines = Table.mapAll (fun _ l => f l) r.lines := rfl
@[simp] theorem Road.mapLines_notices (r : Road) (f : Line → Line) : (r.mapLines f).notices = r.notices := rfl

/-! ## Records of the road after an update -/

@[simp] theorem Road.convoy_setSect (r : Road) (i : SectionId) (v : Section) (k : ConvoyId) : (r.setSect i v).convoy k = r.convoy k := rfl
@[simp] theorem Road.line_setSect (r : Road) (i : SectionId) (v : Section) (k : LineId) : (r.setSect i v).line k = r.line k := rfl
@[simp] theorem Road.request_setSect (r : Road) (i : SectionId) (v : Section) (k : ConvoyId) : (r.setSect i v).request k = r.request k := rfl
@[simp] theorem Road.sect_setSect_self (r : Road) (i : SectionId) (v : Section) : (r.setSect i v).sect i = v := by
  simp [Road.sect, Road.setSect]
theorem Road.sect_setSect (r : Road) (i : SectionId) (v : Section) (k : SectionId) :
    (r.setSect i v).sect k = if k = i then v else r.sect k := by
  simp [Road.sect, Road.setSect, Table.at_put]
@[simp] theorem Road.sect_setSect_other (r : Road) (i : SectionId) (v : Section) {k : SectionId} (h : k ≠ i) :
    (r.setSect i v).sect k = r.sect k := by
  simp [Road.sect_setSect, h]

@[simp] theorem Road.sect_setConvoy (r : Road) (c : ConvoyId) (v : Convoy) (k : SectionId) : (r.setConvoy c v).sect k = r.sect k := rfl
@[simp] theorem Road.line_setConvoy (r : Road) (c : ConvoyId) (v : Convoy) (k : LineId) : (r.setConvoy c v).line k = r.line k := rfl
@[simp] theorem Road.request_setConvoy (r : Road) (c : ConvoyId) (v : Convoy) (k : ConvoyId) : (r.setConvoy c v).request k = r.request k := rfl
@[simp] theorem Road.convoy_setConvoy_self (r : Road) (c : ConvoyId) (v : Convoy) : (r.setConvoy c v).convoy c = v := by
  simp [Road.convoy, Road.setConvoy]
theorem Road.convoy_setConvoy (r : Road) (c : ConvoyId) (v : Convoy) (k : ConvoyId) :
    (r.setConvoy c v).convoy k = if k = c then v else r.convoy k := by
  simp [Road.convoy, Road.setConvoy, Table.at_put]
@[simp] theorem Road.convoy_setConvoy_other (r : Road) (c : ConvoyId) (v : Convoy) {k : ConvoyId} (h : k ≠ c) :
    (r.setConvoy c v).convoy k = r.convoy k := by
  simp [Road.convoy_setConvoy, h]

@[simp] theorem Road.sect_setLine (r : Road) (l : LineId) (v : Line) (k : SectionId) : (r.setLine l v).sect k = r.sect k := rfl
@[simp] theorem Road.convoy_setLine (r : Road) (l : LineId) (v : Line) (k : ConvoyId) : (r.setLine l v).convoy k = r.convoy k := rfl
@[simp] theorem Road.request_setLine (r : Road) (l : LineId) (v : Line) (k : ConvoyId) : (r.setLine l v).request k = r.request k := rfl
@[simp] theorem Road.line_setLine_self (r : Road) (l : LineId) (v : Line) : (r.setLine l v).line l = v := by
  simp [Road.line, Road.setLine]
theorem Road.line_setLine (r : Road) (l : LineId) (v : Line) (k : LineId) :
    (r.setLine l v).line k = if k = l then v else r.line k := by
  simp [Road.line, Road.setLine, Table.at_put]
@[simp] theorem Road.line_setLine_other (r : Road) (l : LineId) (v : Line) {k : LineId} (h : k ≠ l) :
    (r.setLine l v).line k = r.line k := by
  simp [Road.line_setLine, h]

@[simp] theorem Road.sect_setRequest (r : Road) (c : ConvoyId) (v : Option GroupRequest) (k : SectionId) : (r.setRequest c v).sect k = r.sect k := rfl
@[simp] theorem Road.convoy_setRequest (r : Road) (c : ConvoyId) (v : Option GroupRequest) (k : ConvoyId) : (r.setRequest c v).convoy k = r.convoy k := rfl
@[simp] theorem Road.line_setRequest (r : Road) (c : ConvoyId) (v : Option GroupRequest) (k : LineId) : (r.setRequest c v).line k = r.line k := rfl
@[simp] theorem Road.request_setRequest_self (r : Road) (c : ConvoyId) (v : Option GroupRequest) : (r.setRequest c v).request c = v := by
  simp [Road.request, Road.setRequest]
theorem Road.request_setRequest (r : Road) (c : ConvoyId) (v : Option GroupRequest) (k : ConvoyId) :
    (r.setRequest c v).request k = if k = c then v else r.request k := by
  simp [Road.request, Road.setRequest, Table.at_put]
@[simp] theorem Road.request_setRequest_other (r : Road) (c : ConvoyId) (v : Option GroupRequest) {k : ConvoyId} (h : k ≠ c) :
    (r.setRequest c v).request k = r.request k := by
  simp [Road.request_setRequest, h]

@[simp] theorem Road.sect_raise (r : Road) (src : SourceId) (u : BitVec 64) (k : SectionId) : (r.raise src u).sect k = r.sect k := rfl
@[simp] theorem Road.convoy_raise (r : Road) (src : SourceId) (u : BitVec 64) (k : ConvoyId) : (r.raise src u).convoy k = r.convoy k := rfl
@[simp] theorem Road.line_raise (r : Road) (src : SourceId) (u : BitVec 64) (k : LineId) : (r.raise src u).line k = r.line k := rfl
@[simp] theorem Road.request_raise (r : Road) (src : SourceId) (u : BitVec 64) (k : ConvoyId) : (r.raise src u).request k = r.request k := rfl

@[simp] theorem Road.sect_updConvoy (r : Road) (c : ConvoyId) (f : Convoy → Convoy) (k : SectionId) : (r.updConvoy c f).sect k = r.sect k := rfl
@[simp] theorem Road.line_updConvoy (r : Road) (c : ConvoyId) (f : Convoy → Convoy) (k : LineId) : (r.updConvoy c f).line k = r.line k := rfl
@[simp] theorem Road.request_updConvoy (r : Road) (c : ConvoyId) (f : Convoy → Convoy) (k : ConvoyId) : (r.updConvoy c f).request k = r.request k := rfl
@[simp] theorem Road.convoy_updConvoy_self (r : Road) (c : ConvoyId) (f : Convoy → Convoy) : (r.updConvoy c f).convoy c = f (r.convoy c) := by
  simp [Road.convoy, Road.updConvoy, Road.setConvoy, Road.convoy]
theorem Road.convoy_updConvoy (r : Road) (c : ConvoyId) (f : Convoy → Convoy) (k : ConvoyId) :
    (r.updConvoy c f).convoy k = if k = c then f (r.convoy c) else r.convoy k := by
  simp [Road.convoy, Road.updConvoy, Road.setConvoy, Road.convoy, Table.at_put]
@[simp] theorem Road.convoy_updConvoy_other (r : Road) (c : ConvoyId) (f : Convoy → Convoy) {k : ConvoyId} (h : k ≠ c) :
    (r.updConvoy c f).convoy k = r.convoy k := by
  simp [Road.convoy_updConvoy, h]

@[simp] theorem Part.slot_setSlot_self (p : Part) (i : SlotId) (t : Slot) : (p.setSlot i t).slot i = t := by
  simp [Part.slot, Part.setSlot]

end Sys2Proof.Machine
end

