-- ==== Sys2Proof/Laws/Answers.lean ====
section
/-! SUPPORT. Which records of the part each answer can change, said once for each kind of request. -/

namespace Sys2Proof.Machine

/-- The halt unit changes the road alone. -/
theorem Part.reviewHalts_eq (p : Part) :
    p.reviewHalts = { p with road := Machine.reviewHalts p.cells p.drivers p.road } := by
  unfold Part.reviewHalts Part.onRoad
  rfl

theorem Part.onRoad_eq (f : Road → Road) (p : Part) : p.onRoad f = { p with road := f p.road } := rfl

/-- The answers of the queries. -/
def queryAnswers (body : List Byte) : List (Part → Part × Reply) :=
  [answerSqry body, answerQmk body, answerQcv body, answerQdr body, answerQcl body, answerQsl body, answerQln body,
   answerQck body, answerQdp body, answerQnt body]

/-- The answers that act on the road alone. -/
def roadAnswers (body : List Byte) : List (Part → Part × Reply) :=
  [answerSdef body, answerSout body, answerSrst body, answerFcv body, answerDcv body, answerLrt body, answerRun body,
   answerStp body, answerTcv body, answerSpd body, answerShl body, answerHlt body, answerRsm body, answerWln body,
   answerEnn body, answerDsn body, answerPrn body]

theorem queryAnswer_part {body : List Byte} {f : Part → Part × Reply} (hf : f ∈ queryAnswers body) (p : Part) :
    (f p).1 = p := by
  simp only [queryAnswers, List.mem_cons, List.not_mem_nil, or_false] at hf
  rcases hf with rfl | rfl | rfl | rfl | rfl | rfl | rfl | rfl | rfl | rfl
  · unfold answerSqry sqry; repeat' split
    all_goals rfl
  · unfold answerQmk qmk; repeat' split
    all_goals rfl
  · unfold answerQcv qcv; repeat' split
    all_goals rfl
  · unfold answerQdr qdr; repeat' split
    all_goals rfl
  · unfold answerQcl qcl; repeat' split
    all_goals rfl
  · unfold answerQsl qsl; repeat' split
    all_goals rfl
  · unfold answerQln qln; repeat' split
    all_goals rfl
  · unfold answerQck; repeat' split
    all_goals rfl
  · unfold answerQdp qdp; repeat' split
    all_goals rfl
  · unfold answerQnt; repeat' split
    all_goals rfl

theorem roadAnswer_part {body : List Byte} {f : Part → Part × Reply} (hf : f ∈ roadAnswers body) (p : Part) :
    ∃ r, (f p).1 = { p with road := r } := by
  simp only [roadAnswers, List.mem_cons, List.not_mem_nil, or_false] at hf
  rcases hf with rfl | rfl | rfl | rfl | rfl | rfl | rfl | rfl | rfl | rfl | rfl | rfl | rfl | rfl | rfl | rfl | rfl
  · unfold answerSdef sdef defineSection; (try dsimp only); repeat' split
    all_goals exact ⟨_, rfl⟩
  · unfold answerSout sout; repeat' split
    all_goals (simp only [accept, refuse, Part.reviewHalts_eq, Part.onRoad_eq]; exact ⟨_, rfl⟩)
  · unfold answerSrst srst; repeat' split
    all_goals (simp only [accept, refuse, Part.reviewHalts_eq, Part.onRoad_eq]; exact ⟨_, rfl⟩)
  · unfold answerFcv fcv; repeat' split
    all_goals (simp only [accept, refuse, Part.reviewHalts_eq, Part.onRoad_eq]; exact ⟨_, rfl⟩)
  · unfold answerDcv dcv; repeat' split
    all_goals (simp only [accept, refuse, Part.reviewHalts_eq, Part.onRoad_eq]; exact ⟨_, rfl⟩)
  · unfold answerLrt lrt; repeat' split
    all_goals exact ⟨_, rfl⟩
  · unfold answerRun run; repeat' split
    all_goals (simp only [accept, refuse, Part.reviewHalts_eq, Part.onRoad_eq]; exact ⟨_, rfl⟩)
  · unfold answerStp stp; repeat' split
    all_goals (simp only [accept, refuse, Part.reviewHalts_eq, Part.onRoad_eq]; exact ⟨_, rfl⟩)
  · unfold answerTcv tcv; (try dsimp only); repeat' split
    all_goals (simp only [accept, refuse, Part.reviewHalts_eq, Part.onRoad_eq]; exact ⟨_, rfl⟩)
  · unfold answerSpd spd; repeat' split
    all_goals exact ⟨_, rfl⟩
  · unfold answerShl shl; repeat' split
    all_goals (simp only [accept, refuse, Part.reviewHalts_eq, Part.onRoad_eq]; exact ⟨_, rfl⟩)
  · unfold answerHlt hlt; (try dsimp only); repeat' split
    all_goals exact ⟨_, rfl⟩
  · unfold answerRsm rsm; (try dsimp only); repeat' split
    all_goals (simp only [accept, refuse, Part.reviewHalts_eq, Part.onRoad_eq]; exact ⟨_, rfl⟩)
  · unfold answerWln wln; (try dsimp only); repeat' split
    all_goals exact ⟨_, rfl⟩
  · unfold answerEnn listRequest; (try dsimp only); repeat' split
    all_goals exact ⟨_, rfl⟩
  · unfold answerDsn listRequest; (try dsimp only); repeat' split
    all_goals exact ⟨_, rfl⟩
  · unfold answerPrn; repeat' split
    all_goals exact ⟨_, rfl⟩

theorem answerSmk_part (body : List Byte) (p : Part) : ∃ k, (answerSmk body p).1 = { p with markers := k } := by
  unfold answerSmk smk; repeat' split
  all_goals exact ⟨_, rfl⟩

theorem answerScl_part (body : List Byte) (p : Part) : ∃ t, (answerScl body p).1 = { p with cells := t } := by
  unfold answerScl scl; repeat' split
  all_goals exact ⟨_, rfl⟩

/-- SSL keeps what is on the air, and may raise SLOT_APPLIED. -/
theorem answerSsl_part (body : List Byte) (p : Part) :
    ∃ t r, (answerSsl body p).1 = { p with composer := { p.composer with slots := t }, road := r }
      ∧ (∀ i, (Table.at t i).onAir = (Table.at p.composer.slots i).onAir)
      ∧ (r = p.road ∨ ∃ u, r = p.road.raise srcSlotApplied u) := by
  unfold answerSsl ssl
  dsimp only
  split
  · split
    · exact ⟨_, _, rfl, fun _ => rfl, Or.inl rfl⟩
    · rename_i i hi
      repeat' split
      · exact ⟨_, _, rfl, fun _ => rfl, Or.inl rfl⟩
      · exact ⟨_, _, rfl, fun _ => rfl, Or.inl rfl⟩
      · refine ⟨_, _, rfl, fun j => ?_, Or.inr ⟨_, rfl⟩⟩
        rw [Table.at_put]
        split
        · subst_vars
          unfold Slot.applied Slot.given
          rfl
        · rfl
      · refine ⟨_, _, rfl, fun j => ?_, Or.inl rfl⟩
        rw [Table.at_put]
        split
        · subst_vars; rfl
        · rfl
  · exact ⟨_, _, rfl, fun _ => rfl, Or.inl rfl⟩

/-- SCH, KEY, RLS and SFP keep what is on the air. -/
def slotAnswers (body : List Byte) : List (Part → Part × Reply) :=
  [answerSch body, answerKey body, answerRls body, answerSfp body]

theorem slotAnswer_part {body : List Byte} {f : Part → Part × Reply} (hf : f ∈ slotAnswers body) (p : Part) :
    ∃ k, (f p).1 = { p with composer := k }
      ∧ ∀ i, (Table.at k.slots i).onAir = (Table.at p.composer.slots i).onAir := by
  have put : ∀ (j i : SlotId) (t : Slot), t.onAir = (p.slot j).onAir →
      (Table.at (Table.put p.composer.slots j t) i).onAir = (Table.at p.composer.slots i).onAir := by
    intro j i t h
    rw [Table.at_put]
    split
    · subst_vars; exact h
    · rfl
  simp only [slotAnswers, List.mem_cons, List.not_mem_nil, or_false] at hf
  rcases hf with rfl | rfl | rfl | rfl
  · unfold answerSch sch; repeat' split
    all_goals first | exact ⟨_, rfl, fun _ => rfl⟩ | exact ⟨_, rfl, fun i => put _ i _ rfl⟩
  · unfold answerKey keying; repeat' split
    all_goals first | exact ⟨_, rfl, fun _ => rfl⟩ | exact ⟨_, rfl, fun i => put _ i _ rfl⟩
  · unfold answerRls keying; repeat' split
    all_goals first | exact ⟨_, rfl, fun _ => rfl⟩ | exact ⟨_, rfl, fun i => put _ i _ rfl⟩
  · unfold answerSfp sfp; repeat' split
    all_goals exact ⟨_, rfl, fun _ => rfl⟩

/-- A change of one line, offered to the mode controller. -/
theorem offerRise_cases (l : LineId) (p q : Part) : offerRise l p q = q ∨ offerRise l p q = wakeTrigger q := by
  unfold offerRise
  split
  · exact Or.inr rfl
  · exact Or.inl rfl

/-- What a change of one line that leaves it as frozen as it was comes to: its record, and in PARK a rise that wakes (R156). -/
theorem offerRise_setLine (l : LineId) (p : Part) (w : Line) (hw : w.frozen = (p.road.line l).frozen) :
    offerRise l p (p.setLine l w)
      = if p.mode.mode = .park ∧ (p.road.line l).direction = .input ∧ (p.road.line l).wake = true ∧ w.direction = .input
          ∧ w.wake = true
          ∧ (p.road.line l).frozen = none ∧ levelOf (p.road.line l).invert (p.road.line l).wire = false
              ∧ levelOf w.invert w.wire = true
        then { p with mode := { p.mode with mode := .hold, latch := true },
                      road := ((p.road.setLine l w).raise srcModeChanged 0).raise srcParkWake 0 }
        else { p with road := p.road.setLine l w } := by
  unfold offerRise
  have hq : p.setLine l w = { p with road := p.road.setLine l w } := rfl
  rw [hq]
  have hb : p.level l = Line.level p.parkHold p.cells (p.road.line l) := rfl
  have hc : Part.line p l = p.road.line l := rfl
  have hd : Part.line { p with road := p.road.setLine l w } l = w := by
    show (p.road.setLine l w).line l = w; rw [Road.line_setLine_self]
  have ha : Part.level { p with road := p.road.setLine l w } l = Line.level p.parkHold p.cells w := by
    unfold Part.level; rw [hd]; rfl
  rw [hb, hc, hd, ha]
  generalize hL : p.road.line l = L at *
  unfold Line.wakes
  by_cases hi : L.direction = .input ∧ w.direction = .input
  · obtain ⟨h1, h2⟩ := hi
    cases hf : L.frozen with
    | some f =>
      rw [hf] at hw
      rw [if_neg (by unfold Line.level; rw [hf, hw]; cases f.level <;> simp), if_neg (by simp)]
    | none =>
      rw [hf] at hw
      have e1 : Line.level p.parkHold p.cells L = levelOf L.invert L.wire := by simp [Line.level, Line.driven, hf, h1]
      have e2 : Line.level p.parkHold p.cells w = levelOf w.invert w.wire := by simp [Line.level, Line.driven, hw, h2]
      rw [e1, e2]
      by_cases hm : p.mode.mode = .park
      · unfold wakeTrigger
        rw [if_pos hm]
        by_cases hx : (L.wake = true ∧ w.wake = true ∧ levelOf L.invert L.wire = false ∧ levelOf w.invert w.wire = true)
        · obtain ⟨a, b, c, d⟩ := hx
          rw [if_pos (by simp [h1, h2, a, b, c, d]), if_pos ⟨hm, h1, a, h2, b, rfl, c, d⟩]
          simp [changeMode, ModeControl.to, Part.onRoad, hm]
        · rw [if_neg (by simp; intro _ a _ b c; exact Bool.eq_false_iff.mpr fun d => hx ⟨a, b, c, d⟩),
            if_neg (by rintro ⟨_, _, a, _, b, _, c, d⟩; exact hx ⟨a, b, c, d⟩)]
      · unfold wakeTrigger
        rw [if_neg hm, ite_self, if_neg (fun h => hm h.1)]
  · rw [if_neg (by simp; intro a _ b; exact absurd ⟨a, b⟩ hi), if_neg (fun h => hi ⟨h.2.1, h.2.2.2.1⟩)]

/-- SLN sets one line, and may be a wake trigger. -/
theorem answerSln_part (body : List Byte) (p : Part) :
    (answerSln body p).1 = p
      ∨ ∃ l v, (answerSln body p).1 = p.setLine l v ∨ (answerSln body p).1 = wakeTrigger (p.setLine l v) := by
  unfold answerSln sln
  dsimp only
  repeat' split
  all_goals first
    | exact Or.inl rfl
    | exact Or.inr ⟨_, _, offerRise_cases _ _ _⟩

theorem answerSck_part (body : List Byte) (p : Part) : ∃ k, (answerSck body p).1 = { p with clock := k } := by
  unfold answerSck sck; repeat' split
  all_goals exact ⟨_, rfl⟩

theorem answerRck_part (body : List Byte) (p : Part) : ∃ b, (answerRck body p).1
    = { p with clock := { p.clock with running := b } } := by
  unfold answerRck rck; repeat' split
  all_goals exact ⟨_, rfl⟩

theorem answerSdp_part (body : List Byte) (p : Part) : ∃ t, (answerSdp body p).1 = { p with departures := t } := by
  unfold answerSdp sdp; repeat' split
  all_goals exact ⟨_, rfl⟩

theorem answerSmo_part (body : List Byte) (p : Part) :
    ∃ k, (answerSmo body p).1 = { p with mode := k } ∧ k.mode = p.mode.mode ∧ k.latch = p.mode.latch := by
  unfold answerSmo smo; repeat' split
  all_goals exact ⟨_, rfl, rfl, rfl⟩

/-- MOD changes nothing, enters PARK from HOLD, or changes the mode to another. -/
theorem answerMod_part (body : List Byte) (p : Part) :
    (answerMod body p).1 = p ∨ (answerMod body p).1 = parkEntry p
      ∨ ∃ m, m ≠ .park ∧ (answerMod body p).1 = changeMode m p := by
  unfold answerMod modTo; repeat' split
  all_goals first
    | exact Or.inl rfl
    | exact Or.inr (Or.inl rfl)
    | exact Or.inr (Or.inr ⟨_, by assumption, rfl⟩)

theorem answerPrl_part (body : List Byte) (p : Part) :
    (answerPrl body p).1 = p ∨ (p.mode.mode ≠ .park ∧ (answerPrl body p).1 = endHold p) := by
  unfold answerPrl prl; repeat' split
  all_goals first
    | exact Or.inl rfl
    | exact Or.inr ⟨by assumption, rfl⟩

/-- ADJ sets the second and the fraction to 0, with a carry into the minute or without. -/
theorem answerAdj_part (body : List Byte) (p : Part) :
    (answerAdj body p).1 = p ∨ (answerAdj body p).1 = { p with clock := { p.clock with second := 0, fraction := 0 } }
      ∨ (answerAdj body p).1
          = minuteChange { p with clock := ({ p.clock with second := 0, fraction := 0 } : LayoutClock).carryMinute } := by
  unfold answerAdj
  split
  · unfold adj
    dsimp only
    split
    · exact Or.inr (Or.inl rfl)
    · right
      right
      simp only [accept]
  · left
    rfl

end Sys2Proof.Machine
end

