-- ==== Sys2Proof/Laws/Road.lean ====
section
/-! SUPPORT. What each operation of the road interlock, the convoy engine and the halt unit leaves as it was, in the words of
Road.Kept (Safety.lean), said once for each operation. -/

namespace Sys2Proof.Machine

/-! ## The relations are reflexive and transitive -/

/-- A change of the state (formed or not as before), the route, the trims, the causes and the history alone. -/
theorem Convoy.Kept.of_eq {v v' : Convoy} (f : v'.state.formed = v.state.formed)
    (s : v'.members.map Member.slot = v.members.map Member.slot)
    (t : v'.members.map Member.trailers = v.members.map Member.trailers)
    (h : v' = { v with state := v'.state, members := v'.members, route := v'.route, lead := v'.lead, tail := v'.tail,
                       furthest := v'.furthest, asked := v'.asked, history := v'.history,
                       halt := { v.halt with causes := v'.halt.causes } }) : Convoy.Kept v v' := by
  refine ⟨f, s, t, ?_, ?_, ?_, ?_, ?_, ?_, ?_, ?_, ?_, ?_, ?_, ?_, ?_, ?_, ?_⟩ <;> rw [h]
  · exact fun e => e
  · exact Or.inl rfl

theorem Convoy.Kept.refl (v : Convoy) : Convoy.Kept v v := Convoy.Kept.of_eq rfl rfl rfl rfl

theorem Convoy.Kept.trans {u v w : Convoy} (a : Convoy.Kept u v) (b : Convoy.Kept v w) : Convoy.Kept u w where
  formed := b.formed.trans a.formed
  slots := b.slots.trans a.slots
  trailers := b.trailers.trans a.trailers
  priority := b.priority.trans a.priority
  source := b.source.trans a.source
  hostSpeed := b.hostSpeed.trans a.hostSpeed
  cruise := b.cruise.trans a.cruise
  ramp := b.ramp.trans a.ramp
  rearm := fun h => b.rearm (a.rearm h)
  ttDemand := by
    rcases b.ttDemand with e | e
    · rcases a.ttDemand with e' | e'
      · exact Or.inl (e.trans e')
      · exact Or.inr ⟨e.trans e'.1, b.rearm e'.2⟩
    · exact Or.inr e
  lag := b.lag.trans a.lag
  gapMin := b.gapMin.trans a.gapMin
  gapMax := b.gapMax.trans a.gapMax
  trimStep := b.trimStep.trans a.trimStep
  enabled := b.enabled.trans a.enabled
  throttle := b.throttle.trans a.throttle
  lights := b.lights.trans a.lights
  restart := b.restart.trans a.restart

/-- The member count is kept with the members' slots. -/
theorem Convoy.Kept.memberCount {v v' : Convoy} (h : Convoy.Kept v v') : v'.memberCount = v.memberCount := by
  have := congrArg List.length h.slots
  simpa [Convoy.memberCount] using this

theorem Section.Kept.refl (v : Section) : Section.Kept v v where
  defn := rfl
  status := fun _ => rfl
  counts := fun _ e => Or.inl e

theorem Section.Kept.trans {u v w : Section} (a : Section.Kept u v) (b : Section.Kept v w) : Section.Kept u w where
  defn := b.defn.trans a.defn
  status := fun h => by
    have e := a.status h
    rw [← e] at h
    exact (b.status h).trans e
  counts := fun h e => by
    rcases b.counts h e with e' | e'
    · exact a.counts h e'
    · exact Or.inr e'

theorem Section.Kept.handedBack {v v' : Section} (k : Section.Kept v v') : Section.HandedBack v v' :=
  ⟨k.defn, fun h => k.status h.1, k.counts⟩

theorem Section.HandedBack.trans {u v w : Section} (a : Section.HandedBack u v) (b : Section.HandedBack v w) :
    Section.HandedBack u w where
  defn := b.defn.trans a.defn
  status := fun h => by
    have e := a.status h
    rw [← e] at h
    exact (b.status h).trans e
  counts := fun h e => by
    rcases b.counts h e with e' | e'
    · exact a.counts h e'
    · exact Or.inr e'

/-- A change that touches neither definition nor status. -/
theorem Section.Kept.of_status {v v' : Section} (d : v'.defn = v.defn) (s : v'.status = v.status) : Section.Kept v v' where
  defn := d
  status := fun _ => s
  counts := fun _ e => Or.inl (by rw [← s]; exact e)

theorem Line.Kept.refl (l : Line) : Line.Kept l l := rfl

theorem Line.Kept.trans {k l m : Line} (a : Line.Kept k l) (b : Line.Kept l m) : Line.Kept k m := by
  unfold Line.Kept at *
  rw [b, a]

theorem NoticeControl.Kept.refl (k : NoticeControl) : NoticeControl.Kept k k where
  seq := rfl
  enabled := fun _ => rfl
  announced := fun _ => rfl
  priority := fun _ => rfl
  pending := fun _ h => h
  others := fun _ _ _ _ => rfl

theorem NoticeControl.Kept.trans {k l m : NoticeControl} (a : NoticeControl.Kept k l) (b : NoticeControl.Kept l m) :
    NoticeControl.Kept k m where
  seq := b.seq.trans a.seq
  enabled := fun i => (b.enabled i).trans (a.enabled i)
  announced := fun i => (b.announced i).trans (a.announced i)
  priority := fun i => (b.priority i).trans (a.priority i)
  pending := fun i h => b.pending i (a.pending i h)
  others := fun i h1 h2 h3 => (b.others i h1 h2 h3).trans (a.others i h1 h2 h3)

theorem NoticeControl.Kept.raise (k : NoticeControl) (src : SourceId) (u : BitVec 64)
    (h : src = srcConvoyHalted ∨ src = srcGrantPromoted ∨ src = srcConvoyArrived) :
    NoticeControl.Kept k (k.raise src u) where
  seq := rfl
  enabled := fun i => by
    simp only [NoticeControl.raise, Table.at_upd]
    split <;> simp [NoticeSource.raised]
  announced := fun i => by
    simp only [NoticeControl.raise, Table.at_upd]
    split <;> simp [NoticeSource.raised]
  priority := fun i => by
    simp only [NoticeControl.raise, Table.at_upd]
    split <;> simp [NoticeSource.raised]
  pending := fun i hp => by
    simp only [NoticeControl.raise, Table.at_upd]
    split <;> simp [NoticeSource.raised, hp]
  others := fun i h1 h2 h3 => by
    have : i ≠ src := by
      rcases h with h | h | h <;> rw [h] <;> assumption
    simp [NoticeControl.raise, this]

theorem Road.Kept.refl (r : Road) : Road.Kept r r where
  convoys := fun _ => Convoy.Kept.refl _
  sections := fun _ => Section.Kept.refl _
  lines := fun _ => Line.Kept.refl _
  notices := NoticeControl.Kept.refl _

theorem Road.Kept.trans {q r s : Road} (a : Road.Kept q r) (b : Road.Kept r s) : Road.Kept q s where
  convoys := fun c => (a.convoys c).trans (b.convoys c)
  sections := fun i => (a.sections i).trans (b.sections i)
  lines := fun l => (a.lines l).trans (b.lines l)
  notices := a.notices.trans b.notices

theorem Road.Kept.handedBack {r r' : Road} (k : Road.Kept r r') : Road.HandedBack r r' :=
  ⟨k.convoys, fun i => (k.sections i).handedBack, k.lines, k.notices⟩

theorem Road.HandedBack.refl (r : Road) : Road.HandedBack r r := (Road.Kept.refl r).handedBack

theorem Road.HandedBack.trans {q r s : Road} (a : Road.HandedBack q r) (b : Road.HandedBack r s) : Road.HandedBack q s where
  convoys := fun c => (a.convoys c).trans (b.convoys c)
  sections := fun i => (a.sections i).trans (b.sections i)
  lines := fun l => (a.lines l).trans (b.lines l)
  notices := a.notices.trans b.notices

/-- A fold of kept steps is kept. -/
theorem Road.Kept.foldl {α : Type} {f : Road → α → Road} (xs : List α) (r : Road)
    (h : ∀ r, ∀ x ∈ xs, Road.Kept r (f r x)) : Road.Kept r (xs.foldl f r) := by
  induction xs generalizing r with
  | nil => exact Road.Kept.refl r
  | cons x xs ih =>
    exact (h r x (by simp)).trans (ih (f r x) fun r y hy => h r y (by simp [hy]))

/-! ## Updates of one record -/

theorem Road.kept_updConvoy (r : Road) (c : ConvoyId) {f : Convoy → Convoy} (h : ∀ v, Convoy.Kept v (f v)) :
    Road.Kept r (r.updConvoy c f) where
  convoys := fun k => by
    rw [Road.convoy_updConvoy]
    split
    · subst_vars; exact h _
    · exact Convoy.Kept.refl _
  sections := fun _ => Section.Kept.refl _
  lines := fun _ => Line.Kept.refl _
  notices := NoticeControl.Kept.refl _

theorem Road.kept_setSect (r : Road) (i : SectionId) {v : Section} (h : Section.Kept (r.sect i) v) :
    Road.Kept r (r.setSect i v) where
  convoys := fun _ => Convoy.Kept.refl _
  sections := fun k => by
    rw [Road.sect_setSect]
    split
    · subst_vars; exact h
    · exact Section.Kept.refl _
  lines := fun _ => Line.Kept.refl _
  notices := NoticeControl.Kept.refl _

theorem Road.kept_setRequest (r : Road) (c : ConvoyId) (v : Option GroupRequest) : Road.Kept r (r.setRequest c v) :=
  ⟨fun _ => Convoy.Kept.refl _, fun _ => Section.Kept.refl _, fun _ => Line.Kept.refl _, NoticeControl.Kept.refl _⟩

theorem Road.kept_raise (r : Road) (src : SourceId) (u : BitVec 64)
    (h : src = srcConvoyHalted ∨ src = srcGrantPromoted ∨ src = srcConvoyArrived) : Road.Kept r (r.raise src u) :=
  ⟨fun _ => Convoy.Kept.refl _, fun _ => Section.Kept.refl _, fun _ => Line.Kept.refl _,
    NoticeControl.Kept.raise _ _ _ h⟩

/-- A change of requests, counts and lists alone. -/
theorem Road.kept_of_eq {r r' : Road} (hc : r'.convoys = r.convoys) (hs : r'.sections = r.sections)
    (hl : r'.lines = r.lines) (hn : r'.notices = r.notices) : Road.Kept r r' where
  convoys := fun c => by unfold Road.convoy; rw [hc]; exact Convoy.Kept.refl _
  sections := fun i => by unfold Road.sect; rw [hs]; exact Section.Kept.refl _
  lines := fun l => by unfold Road.line; rw [hl]; exact Line.Kept.refl _
  notices := by rw [hn]; exact NoticeControl.Kept.refl _

/-- A change of every section that keeps each. -/
theorem Road.kept_sections {r : Road} {f : Fin 64 → Section → Section} (h : ∀ i v, Section.Kept v (f i v)) :
    Road.Kept r { r with sections := Table.mapAll f r.sections } where
  convoys := fun _ => Convoy.Kept.refl _
  sections := fun i => by simp only [Road.sect, Table.at_mapAll]; exact h i _
  lines := fun _ => Line.Kept.refl _
  notices := NoticeControl.Kept.refl _

/-! ## The convoy record -/

theorem Convoy.kept_reindex (v : Convoy) : Convoy.Kept v v.reindex := Convoy.Kept.of_eq rfl rfl rfl rfl

theorem Convoy.kept_mapSteps (v : Convoy) (f : Nat → RouteStep → RouteStep) : Convoy.Kept v (v.mapSteps f) :=
  Convoy.Kept.of_eq rfl rfl rfl rfl

theorem Convoy.kept_setLead (v : Convoy) (k : Nat) : Convoy.Kept v (v.setLead k) := Convoy.Kept.of_eq rfl rfl rfl rfl

theorem ConvoyState.formed_mapBase (f : BaseState → BaseState) (s : ConvoyState) : (s.mapBase f).formed = s.formed := by
  cases s <;> rfl

theorem kept_setBase (f : BaseState → BaseState) (v : Convoy) : Convoy.Kept v (setBase f v) :=
  Convoy.Kept.of_eq (ConvoyState.formed_mapBase f v.state) rfl rfl rfl

theorem Convoy.kept_runIfClear (v : Convoy) : Convoy.Kept v v.runIfClear := by
  unfold Convoy.runIfClear
  split
  · exact kept_setBase _ v
  · exact Convoy.Kept.refl v

theorem Convoy.kept_granted (first last : Nat) (v : Convoy) : Convoy.Kept v (v.granted first last) :=
  Convoy.Kept.of_eq rfl rfl rfl rfl

theorem Convoy.kept_settled (first last : Nat) (v : Convoy) : Convoy.Kept v (v.settled first last) :=
  Convoy.Kept.trans (Convoy.kept_mapSteps v _) (Convoy.kept_runIfClear _)

theorem Convoy.kept_markAsked (first last : Nat) (v : Convoy) : Convoy.Kept v (v.markAsked first last) :=
  Convoy.Kept.of_eq rfl rfl rfl rfl

theorem Convoy.kept_gapChecked (k gap : Nat) (time : Half) (v : Convoy) : Convoy.Kept v (v.gapChecked k gap time) := by
  have h : ∀ {β : Type} (g : Member → β) (f : Member → Member), (∀ m, g (f m) = g m) →
      ∀ (xs : List Member) (j : Nat), (xs.modify j f).map g = xs.map g := by
    intro β g f hf xs
    induction xs with
    | nil => intro j; cases j <;> rfl
    | cons x xs ih => intro j; cases j <;> simp [hf, ih]
  unfold Convoy.gapChecked
  dsimp only
  refine Convoy.Kept.of_eq rfl ?_ ?_ rfl <;> (refine h _ _ ?_ _ _; intro m; rfl)

theorem Convoy.kept_joined (new : SourceSet) (v : Convoy) : Convoy.Kept v (v.joined new) :=
  Convoy.Kept.of_eq (by show v.state.toHalted.formed = v.state.formed; cases v.state <;> rfl) rfl rfl rfl

theorem Convoy.formed_afterHalt (v : Convoy) : v.afterHalt.formed = v.state.formed := by
  unfold Convoy.afterHalt
  cases h : v.state with
  | vacant => rfl
  | plain b => rfl
  | halted b => cases b <;> simp <;> first | rfl | (split <;> rfl)

theorem Convoy.kept_restarted (v : Convoy) : Convoy.Kept v v.restarted := by
  constructor <;> first | rfl | exact Convoy.formed_afterHalt v | exact fun _ => rfl | exact Or.inr ⟨rfl, rfl⟩

/-! ## Reports and settling (R39, R62, R63) -/

theorem kept_grantReport (c : ConvoyId) (first last : Nat) (r : Road) : Road.Kept r (grantReport c first last r) :=
  Road.kept_updConvoy r c (Convoy.kept_granted first last)

theorem kept_settledReport (c : ConvoyId) (first last : Nat) (r : Road) : Road.Kept r (settledReport c first last r) :=
  Road.kept_updConvoy r c (Convoy.kept_settled first last)

theorem kept_reviewSettling (r : Road) : Road.Kept r (reviewSettling r) := by
  unfold reviewSettling
  dsimp only
  refine Road.Kept.trans ?_ (Road.Kept.foldl _ _ fun r t _ => kept_settledReport _ _ _ r)
  exact Road.kept_of_eq rfl rfl rfl rfl

theorem kept_stopTimer (i : SectionId) (r : Road) : Road.Kept r (stopTimer i r) :=
  Road.kept_setSect r i (Section.Kept.of_status rfl rfl)

theorem kept_leaveRecords (secs : List SectionId) (r : Road) : Road.Kept r (leaveRecords secs r) :=
  (Road.Kept.foldl secs r fun r i _ => kept_stopTimer i r).trans (Road.kept_of_eq rfl rfl rfl rfl)

theorem kept_leaveHolder (secs : List SectionId) (r : Road) : Road.Kept r (leaveHolder secs r) :=
  (kept_leaveRecords secs r).trans (kept_reviewSettling _)

/-! ## The arbiter -/

theorem kept_placeEarmarks (r : Road) : Road.Kept r (placeEarmarks r) :=
  Road.kept_sections fun _ _ => Section.Kept.of_status rfl rfl

/-- A section with a fresh holding where it was FREE. -/
structure Section.Given (v v' : Section) : Prop where
  defn : v'.defn = v.defn
  status : v'.status = v.status ∨ (v.status = .free ∧ ∃ h, v'.status = .granted h ∧ h.entered = 0 ∧ h.exited = 0)

theorem Section.Given.kept {v v' : Section} (g : Section.Given v v') : Section.Kept v v' where
  defn := g.defn
  status := fun h => g.status.resolve_right fun e => h e.1
  counts := fun h e => by
    rcases g.status with s | ⟨_, h', s, z⟩
    · exact Or.inl (s ▸ e)
    · rw [s] at e
      cases e
      exact Or.inr z

/-- Sections that were FREE are given, once or again, to one convoy. -/
theorem given_grantLegs (c : ConvoyId) (r₀ : Road) (legs : List Leg) (h : ∀ l ∈ legs, (r₀.sect l.sec).status = .free) :
    ∀ r : Road, (∀ i, Section.Given (r₀.sect i) (r.sect i)) →
      ∀ i, Section.Given (r₀.sect i) ((legs.foldl (fun r l => grantLeg c l r) r).sect i) := by
  induction legs with
  | nil => exact fun r k => k
  | cons l ls ih =>
    intro r k
    refine ih (fun m hm => h m (by simp [hm])) _ fun i => ?_
    show Section.Given (r₀.sect i) ((grantLeg c l r).sect i)
    unfold grantLeg
    dsimp only
    rw [Road.sect_setSect]
    split
    · rename_i e
      subst e
      exact ⟨(k _).defn, Or.inr ⟨h l (by simp), _, rfl, rfl, rfl⟩⟩
    · exact k i

theorem grantLegs_rest (c : ConvoyId) (legs : List Leg) (r : Road) :
    (legs.foldl (fun r l => grantLeg c l r) r).convoys = r.convoys
      ∧ (legs.foldl (fun r l => grantLeg c l r) r).lines = r.lines
      ∧ (legs.foldl (fun r l => grantLeg c l r) r).notices = r.notices := by
  induction legs generalizing r with
  | nil => exact ⟨rfl, rfl, rfl⟩
  | cons l ls ih => exact ih (grantLeg c l r)

theorem kept_grantLegs (c : ConvoyId) (legs : List Leg) (r : Road) (h : ∀ l ∈ legs, (r.sect l.sec).status = .free) :
    Road.Kept r (legs.foldl (fun r l => grantLeg c l r) r) := by
  obtain ⟨hc, hl, hn⟩ := grantLegs_rest c legs r
  refine ⟨fun k => ?_, fun i => ?_, fun l => ?_, ?_⟩
  · unfold Road.convoy; rw [hc]; exact Convoy.Kept.refl _
  · exact (given_grantLegs c r legs h r (fun i => ⟨rfl, Or.inl rfl⟩) i).kept
  · unfold Road.line; rw [hl]; exact Line.Kept.refl _
  · rw [hn]; exact NoticeControl.Kept.refl _

theorem kept_setLine_junction (r : Road) (l : LineId) (b : Bool) :
    Road.Kept r (r.setLine l { r.line l with junction := b }) where
  convoys := fun _ => Convoy.Kept.refl _
  sections := fun _ => Section.Kept.refl _
  lines := fun k => by
    rw [Road.line_setLine]
    split
    · subst_vars; rfl
    · exact Line.Kept.refl _
  notices := NoticeControl.Kept.refl _

theorem kept_setJunction (l : Leg) (r : Road) : Road.Kept r (setJunction l r) := by
  unfold setJunction
  split
  · exact Road.Kept.refl r
  · dsimp only
    split
    · exact Road.Kept.refl r
    · split
      · exact kept_setLine_junction r _ _
      · exact (kept_setLine_junction r _ _).trans (Road.kept_setSect _ _ (Section.Kept.of_status rfl rfl))

theorem kept_grant {c : ConvoyId} {q : GroupRequest} {r : Road} (h : ∀ l ∈ q.legs, (r.sect l.sec).status = .free) :
    Road.Kept r (grant c q r) := by
  unfold grant
  dsimp only
  have k := ((((kept_grantLegs c q.legs r h).trans (Road.kept_setRequest _ c none)).trans
    (Road.kept_of_eq (r' := { (q.legs.foldl (fun r l => grantLeg c l r) r).setRequest c none with
      promotions := (q.legs.foldl (fun r l => grantLeg c l r) r).promotions.filter fun x => x ≠ c })
      rfl rfl rfl rfl)).trans
    (Road.Kept.foldl q.legs _ fun r l _ => kept_setJunction l r)).trans (kept_grantReport c q.first q.last _)
  split
  · exact k.trans (Road.kept_of_eq rfl rfl rfl rfl)
  · exact k.trans (kept_settledReport _ _ _ _)

theorem kept_passOver (g : GroupRequest) (r : Road) : Road.Kept r (passOver g r) := Road.kept_of_eq rfl rfl rfl rfl

theorem kept_promoteOne (e : ConvoyId × GroupRequest) (r : Road) : Road.Kept r (promoteOne e r) := by
  unfold promoteOne
  dsimp only
  refine Road.Kept.trans ?_ (Road.kept_raise _ _ _ (Or.inr (Or.inl rfl)))
  exact Road.kept_of_eq rfl rfl rfl rfl

theorem kept_promote (r : Road) : Road.Kept r (promote r) :=
  (Road.Kept.foldl _ r fun r e _ => kept_promoteOne e r).trans (kept_placeEarmarks _)

theorem foldl_choose_mem {α : Type} (f : Option α → α → Option α) (hf : ∀ b e, f b e = b ∨ f b e = some e) :
    ∀ (xs : List α) (b : Option α) (x : α), xs.foldl f b = some x → b = some x ∨ x ∈ xs := by
  intro xs
  induction xs with
  | nil => intro b x h; exact Or.inl h
  | cons y ys ih =>
    intro b x h
    rcases ih _ _ h with h' | h'
    · rcases hf b y with e | e
      · exact Or.inl (e ▸ h')
      · rw [e] at h'
        exact Or.inr (by simp [Option.some.inj h'])
    · exact Or.inr (by simp [h'])

/-- The chosen request is a waiting, grantable one. -/
theorem choice_grantable {r : Road} {c : ConvoyId} {q : GroupRequest} (h : r.choice = some (c, q)) :
    (c, q) ∈ r.waiting ∧ r.grantable c q = true := by
  unfold Road.choice at h
  rcases foldl_choose_mem _ (fun b e => by
    cases b with
    | none => exact Or.inr rfl
    | some b => dsimp only; split <;> simp) _ _ _ h with h' | h'
  · exact absurd h' (by simp)
  · simpa using h'

theorem grantable_legs {r : Road} {c : ConvoyId} {q : GroupRequest} (h : r.grantable c q = true) :
    ∀ l ∈ q.legs, (r.sect l.sec).status = .free := by
  intro l hl
  have := List.all_eq_true.mp h l hl
  simp only [Road.legFree, Bool.and_eq_true, decide_eq_true_eq] at this
  exact this.1

theorem kept_passLoop (fuel : Nat) (r : Road) : Road.Kept r (passLoop fuel r) := by
  induction fuel generalizing r with
  | zero => exact Road.Kept.refl r
  | succ n ih =>
    unfold passLoop
    split
    · exact Road.Kept.refl r
    · rename_i c q hc
      have hl := grantable_legs (choice_grantable hc).2
      exact (((kept_grant hl).trans (kept_passOver q _)).trans (kept_promote _)).trans (ih _)

theorem kept_arbitrate (r : Road) : Road.Kept r (arbitrate r) := (kept_placeEarmarks r).trans (kept_passLoop 8 _)

theorem kept_renumber (r : Road) : Road.Kept r (renumber r) := Road.kept_of_eq rfl rfl rfl rfl

theorem kept_arrive (c : ConvoyId) (first : Nat) (legs : List Leg) (r : Road) : Road.Kept r (arrive c first legs r) := by
  unfold arrive
  dsimp only
  have h : Road.Kept r (if r.arrivals = 65535 then renumber r else r) := by
    split
    · exact kept_renumber r
    · exact Road.Kept.refl r
  refine Road.Kept.trans ?_ (kept_arbitrate _)
  refine Road.Kept.trans ?_ (Road.Kept.foldl _ _ fun r l _ => Road.kept_setSect r l.sec (Section.Kept.of_status rfl rfl))
  exact h.trans (Road.kept_of_eq rfl rfl rfl rfl)

theorem kept_withdraw (c : ConvoyId) (r : Road) : Road.Kept r (withdraw c r) := by
  unfold withdraw
  split
  · exact Road.Kept.refl r
  · dsimp only
    have h : Road.Kept r { r.setRequest c none with
        promotions := r.promotions.filter fun x => x ≠ c,
        sections := Table.mapAll (fun _ v => v.without c) r.sections } :=
      ((Road.kept_sections (f := fun _ v => v.without c) fun _ _ => Section.Kept.of_status rfl rfl).trans
        (Road.kept_setRequest _ c none)).trans (Road.kept_of_eq rfl rfl rfl rfl)
    split
    · exact h.trans (kept_arbitrate _)
    · exact h

/-- A section that is FREE or GRANTED. -/
def SectionStatus.mayFree (s : SectionStatus) : Prop := s = .free ∨ ∃ h, s = .granted h

theorem Road.handedBack_freeSection {i : SectionId} {r : Road} (h : (r.sect i).status.mayFree) :
    Road.HandedBack r (freeSection i r) where
  convoys := fun _ => Convoy.Kept.refl _
  sections := fun k => by
    unfold freeSection
    rw [Road.sect_setSect]
    split
    · rename_i e
      subst e
      refine ⟨rfl, ?_, ?_⟩
      · rintro ⟨h1, h2⟩
        rcases h with h | ⟨g, h⟩
        · exact absurd h h1
        · exact absurd h (h2 g)
      · intro g e
        simp [SectionStatus.holding] at e
    · exact (Section.Kept.refl _).handedBack
  lines := fun _ => Line.Kept.refl _
  notices := NoticeControl.Kept.refl _

theorem Road.handedBack_freeSections (secs : List SectionId) (r : Road) (h : ∀ i ∈ secs, (r.sect i).status.mayFree) :
    Road.HandedBack r (secs.foldl (fun r i => freeSection i r) r) := by
  induction secs generalizing r with
  | nil => exact Road.HandedBack.refl r
  | cons i is ih =>
    refine (Road.handedBack_freeSection (h i (by simp))).trans (ih _ fun j hj => ?_)
    unfold freeSection
    rw [Road.sect_setSect]
    split
    · exact Or.inl rfl
    · exact h j (by simp [hj])

/-! ## The engine -/

theorem kept_withdrawAsked (c : ConvoyId) (r : Road) : Road.Kept r (withdrawAsked c r) := by
  unfold withdrawAsked
  dsimp only
  split
  · exact (Road.kept_updConvoy r c fun v => by apply Convoy.Kept.of_eq <;> rfl).trans (kept_withdraw c _)
  · exact kept_withdraw c r

theorem kept_ask (c : ConvoyId) (first : Nat) (r : Road) : Road.Kept r (ask c first r) := by
  unfold ask
  dsimp only
  split
  · exact kept_withdrawAsked c r
  · exact ((kept_withdrawAsked c r).trans (Road.kept_updConvoy _ c (Convoy.kept_markAsked _ _))).trans
      (kept_arrive _ _ _ _)

theorem kept_startConvoy (c : ConvoyId) (r : Road) : Road.Kept r (startConvoy c r) :=
  (Road.kept_updConvoy r c (kept_setBase _)).trans (kept_ask _ _ _)

theorem kept_leadChecks (c : ConvoyId) (r : Road) : Road.Kept r (leadChecks c r) := by
  unfold leadChecks
  dsimp only
  split
  · exact Road.Kept.refl r
  · exact Road.Kept.refl r
  · split
    · exact (Road.kept_updConvoy r c (kept_setBase _)).trans (kept_ask _ _ _)
    · exact Road.Kept.refl r
  all_goals exact Road.kept_updConvoy r c (kept_setBase _)

theorem kept_arrivalTest (c : ConvoyId) (r : Road) : Road.Kept r (arrivalTest c r) := by
  unfold arrivalTest
  split
  · exact ((kept_withdrawAsked c r).trans (Road.kept_updConvoy _ c (kept_setBase _))).trans
      (Road.kept_raise _ _ _ (Or.inr (Or.inr rfl)))
  · exact Road.Kept.refl r

theorem kept_arrivalTestAt (c : ConvoyId) (k : Nat) (r : Road) : Road.Kept r (arrivalTestAt c k r) := by
  unfold arrivalTestAt
  split
  · exact kept_arrivalTest c r
  · exact Road.Kept.refl r

theorem kept_gapCheck (before : Convoy) (c : ConvoyId) (i : SectionId) (k : Nat) (time : Half) (r : Road) :
    Road.Kept r (gapCheck before c i k time r) := by
  unfold gapCheck
  split
  · split
    · split
      · exact Road.kept_updConvoy r c (Convoy.kept_gapChecked _ _ _)
      · exact Road.Kept.refl r
    · exact Road.Kept.refl r
  · exact Road.Kept.refl r

theorem kept_leadEntry (c : ConvoyId) (k : Nat) (r : Road) : Road.Kept r (leadEntry c k r) := by
  unfold leadEntry
  split
  · exact (Road.kept_updConvoy r c fun v => Convoy.kept_setLead v k).trans (kept_leadChecks c _)
  · exact Road.Kept.refl r

theorem kept_entryReport (before : Convoy) (c : ConvoyId) (i : SectionId) (member : Nat) (time : Half) (r : Road) :
    Road.Kept r (entryReport before c i member time r) := by
  unfold entryReport
  split
  · exact Road.Kept.refl r
  · dsimp only
    refine Road.Kept.trans ?_ (kept_arrivalTestAt _ _ _)
    split
    · exact kept_leadEntry _ _ _
    · exact kept_gapCheck _ _ _ _ _ _

theorem kept_raiseLead (c : ConvoyId) (r : Road) : Road.Kept r (raiseLead c r) := by
  unfold raiseLead
  dsimp only
  split
  · exact Road.Kept.refl r
  · split
    · exact ((Road.kept_updConvoy r c fun v => Convoy.kept_setLead v _).trans (kept_leadChecks c _)).trans
        (kept_arrivalTestAt _ _ _)
    · exact Road.Kept.refl r

theorem kept_releaseReport (c : ConvoyId) (i : SectionId) (r : Road) : Road.Kept r (releaseReport c i r) := by
  unfold releaseReport
  split
  · exact Road.Kept.refl r
  · exact (Road.kept_updConvoy r c fun v => Convoy.kept_mapSteps v _).trans (kept_raiseLead c _)

theorem kept_restorationReport (c : ConvoyId) (i : SectionId) (entered : Nat) (r : Road) :
    Road.Kept r (restorationReport c i entered r) := by
  unfold restorationReport
  split
  · exact Road.Kept.refl r
  · refine Road.Kept.trans ?_ (kept_arrivalTestAt _ _ _)
    split
    · exact kept_leadEntry _ _ _
    · exact Road.Kept.refl r

theorem Road.handedBack_handBack (c : ConvoyId) (r : Road) : Road.HandedBack r (handBack c r) := by
  unfold handBack
  dsimp only
  have h : ∀ (secs : List SectionId), Road.HandedBack r
      ((secs.filter fun i => match (r.sect i).status with | .granted h => h.convoy = c | _ => false).foldl
        (fun r i => freeSection i r) r) := by
    intro secs
    refine Road.handedBack_freeSections _ r fun i hi => ?_
    have := (List.mem_filter.mp hi).2
    cases hs : (r.sect i).status with
    | granted g => exact Or.inr ⟨g, rfl⟩
    | _ => simp [hs] at this
  split
  · refine Road.HandedBack.trans ?_ (kept_leaveHolder _ _).handedBack
    refine Road.HandedBack.trans ?_ (Road.kept_updConvoy _ c fun v => Convoy.kept_mapSteps v _).handedBack
    exact h _
  · refine Road.HandedBack.trans ?_ (kept_arbitrate _).handedBack
    refine Road.HandedBack.trans ?_ (kept_leaveHolder _ _).handedBack
    refine Road.HandedBack.trans ?_ (Road.kept_updConvoy _ c fun v => Convoy.kept_mapSteps v _).handedBack
    exact h _

theorem kept_afterLoss (c : ConvoyId) (r : Road) : Road.Kept r (afterLoss c r) := by
  unfold afterLoss
  dsimp only
  split
  · split
    · exact (Road.kept_updConvoy r c (kept_setBase _)).trans (kept_ask _ _ _)
    · exact (Road.kept_updConvoy r c (kept_setBase _)).trans (Road.kept_updConvoy _ c Convoy.kept_runIfClear)
  · exact Road.Kept.refl r

theorem Road.handedBack_forcedLoss (c : ConvoyId) (i : SectionId) (r : Road) : Road.HandedBack r (forcedLoss c i r) := by
  unfold forcedLoss
  split
  · exact Road.HandedBack.refl r
  · dsimp only
    split
    · exact (((kept_withdrawAsked c r).trans (Road.kept_updConvoy _ c fun v => Convoy.kept_mapSteps v _)).handedBack.trans
        (Road.handedBack_handBack c _)).trans (kept_afterLoss c _).handedBack
    · exact (Road.kept_updConvoy r c fun v => Convoy.kept_mapSteps v _).handedBack

theorem Road.handedBack_stopConvoy (c : ConvoyId) (r : Road) : Road.HandedBack r (stopConvoy c r) :=
  ((kept_withdrawAsked c r).handedBack.trans (Road.handedBack_handBack c _)).trans
    (Road.kept_updConvoy _ c (kept_setBase _)).handedBack

/-! ## The halt unit -/

theorem kept_joinCauses (c : ConvoyId) (srcs : SourceSet) (r : Road) : Road.Kept r (joinCauses c srcs r) := by
  unfold joinCauses
  dsimp only
  split
  · exact (Road.kept_updConvoy r c (Convoy.kept_joined _)).trans (Road.kept_raise _ _ _ (Or.inl rfl))
  · exact Road.Kept.refl r

theorem kept_haltEnd (c : ConvoyId) (r : Road) : Road.Kept r (haltEnd c r) := by
  unfold haltEnd
  dsimp only
  split
  · exact (Road.kept_updConvoy r c Convoy.kept_restarted).trans (kept_ask _ _ _)
  · exact Road.kept_updConvoy r c Convoy.kept_restarted

theorem kept_leaveCauses (active : SourceSet) (c : ConvoyId) (r : Road) : Road.Kept r (leaveCauses active c r) := by
  unfold leaveCauses
  dsimp only
  split
  · split
    · exact kept_haltEnd c r
    · exact Road.kept_updConvoy r c fun v => by apply Convoy.Kept.of_eq <;> rfl
  · exact Road.Kept.refl r

theorem kept_reviewHalt (cells : Table Cell 8) (drivers : DriverPort) (c : ConvoyId) (r : Road) :
    Road.Kept r (reviewHalt cells drivers c r) :=
  ((kept_joinCauses c _ r).trans (kept_leaveCauses _ c _)).trans (kept_joinCauses c _ _)

theorem kept_reviewHalts (cells : Table Cell 8) (drivers : DriverPort) (r : Road) :
    Road.Kept r (reviewHalts cells drivers r) :=
  Road.Kept.foldl _ r fun r c _ => kept_reviewHalt cells drivers c r

theorem kept_driverHaltEvent (d : DriverId) (r : Road) : Road.Kept r (driverHaltEvent d r) :=
  Road.Kept.foldl _ r fun r c _ => kept_joinCauses c _ r

end Sys2Proof.Machine
end

