-- ==== Sys2Proof/Laws/Clear.lean ====
section
/-! SUPPORT. Where nothing acts on the halts the halt unit leaves the road as it is, and where nothing is asked for the arbiter
does. -/

namespace Sys2Proof.Machine

/-! ## The halt unit -/

theorem cellLevels_of_false {cells : Table Cell 8} (h : ∀ k, (Table.at cells k).output = false) : cellLevels cells = 0 := by
  simp [cellLevels, h, List.finRange]

theorem sectionFaultActive_of_none {r : Road} (h : ∀ i, (r.sect i).status.isFault = false) (c : ConvoyId) :
    r.sectionFaultActive c = false := by
  have hf : ∀ i, r.faulted i = false := h
  unfold Road.sectionFaultActive
  simp only [Bool.or_eq_false_iff, List.any_eq_false, hf]
  refine ⟨⟨by simp, ?_⟩, by simp [hf]⟩
  split <;> simp

/-- No level source is active. -/
theorem AllClear.levels {p : Part} (h : AllClear p) (c : ConvoyId) : activeLevels p.cells p.drivers c p.road = 0 := by
  obtain ⟨h1, h2, h3, _⟩ := h
  unfold activeLevels
  simp [cellLevels_of_false h1, sectionFaultActive_of_none h2, h3]

theorem joinCauses_zero (c : ConvoyId) (r : Road) : joinCauses c 0 r = r := by
  simp [joinCauses]

theorem leaveCauses_of_not_halted {c : ConvoyId} {r : Road} (active : SourceSet) (h : (r.convoy c).state.isHalted = false) :
    leaveCauses active c r = r := by
  simp [leaveCauses, h]

/-- The halt unit finds nothing to do. -/
theorem AllClear.reviewHalts {p : Part} (h : AllClear p) : Machine.reviewHalts p.cells p.drivers p.road = p.road := by
  have hr : ∀ c, reviewHalt p.cells p.drivers c p.road = p.road := by
    intro c
    unfold reviewHalt
    simp only [h.levels c, joinCauses_zero, leaveCauses_of_not_halted _ (h.2.2.2 c)]
  have hf : ∀ cs : List ConvoyId, cs.foldl (fun r c => reviewHalt p.cells p.drivers c r) p.road = p.road := by
    intro cs
    induction cs with
    | nil => rfl
    | cons c cs ih => rw [List.foldl_cons, hr c, ih]
  exact hf _

/-- The same, of a part with the road given. -/
theorem AllClear.road {p : Part} {r : Road} (h : AllClear { p with road := r }) :
    Machine.reviewHalts p.cells p.drivers r = r := h.reviewHalts

/-! ## The arbiter -/

theorem placeEarmarks_of_none {r : Road} (h : r.promotions = []) : placeEarmarks r = r := by
  have : Table.mapAll (fun _ v => { v with earmark := Section.earmarkFor r.promotions v }) r.sections = r.sections := by
    apply Table.ext
    intro i
    rw [Table.at_mapAll]
    have e : Section.earmarkFor r.promotions (Table.at r.sections i) = (Table.at r.sections i).earmark := by
      unfold Section.earmarkFor
      rw [h]
      cases (Table.at r.sections i).earmark <;> simp
    rw [e]
  unfold placeEarmarks
  rw [this]

theorem waiting_of_none {r : Road} (h : ∀ c, r.request c = none) : r.waiting = [] := by
  unfold Road.waiting Table.entries
  rw [List.filterMap_eq_nil_iff]
  intro e he
  obtain ⟨c, _, rfl⟩ := List.mem_map.mp he
  have : Table.at r.requests c = none := h c
  simp [this]

theorem NoRequests.choice {r : Road} (h : NoRequests r) : r.choice = none := by
  simp [Road.choice, waiting_of_none h.1]

/-- The arbiter finds nothing to do. -/
theorem NoRequests.arbitrate {r : Road} (h : NoRequests r) : Machine.arbitrate r = r := by
  unfold Machine.arbitrate
  rw [placeEarmarks_of_none h.2]
  unfold passLoop
  rw [h.choice]

theorem NoRequests.promote {r : Road} (h : NoRequests r) : Machine.promote r = r := by
  unfold Machine.promote Road.duePromotions
  rw [waiting_of_none h.1]
  exact placeEarmarks_of_none h.2

end Sys2Proof.Machine
end

