-- ==== Sys2Proof/Laws/Events.lean ====
section
/-! SUPPORT. Which records of the part each event can change, said once for each event. -/

namespace Sys2Proof.Machine

/-- A fold keeps what each of its steps keeps. -/
theorem foldl_keeps {α β : Type} {P : β → Prop} {f : β → α → β} (xs : List α) (b : β)
    (step : ∀ b, ∀ x ∈ xs, P b → P (f b x)) (h : P b) : P (xs.foldl f b) := by
  induction xs generalizing b with
  | nil => exact h
  | cons x xs ih => exact ih (f b x) (fun b y hy => step b y (by simp [hy])) (step b x (by simp) h)

/-! ## Triggers -/

theorem wakeTrigger_cases (p : Part) :
    wakeTrigger p = p
      ∨ (p.mode.mode = .park ∧ wakeTrigger p = (changeMode .hold p).onRoad (Road.raise srcParkWake 0)) := by
  unfold wakeTrigger
  split
  · exact Or.inr ⟨by assumption, rfl⟩
  · exact Or.inl rfl

theorem resumeTrigger_cases (p : Part) :
    resumeTrigger p = p ∨ (p.mode.mode = .hold ∧ resumeTrigger p = changeMode .run p) := by
  unfold resumeTrigger
  split
  · exact Or.inr ⟨by assumption, rfl⟩
  · exact Or.inl rfl

theorem holdTrigger_cases (p : Part) : holdTrigger p = p ∨ holdTrigger p = changeMode .hold p := by
  unfold holdTrigger
  split
  · exact Or.inr rfl
  · exact Or.inl rfl

/-! ## Chapter 1 -/

theorem markerPulse_part (m : MarkerId) (p : Part) :
    markerPulse m p
      = { p with road := Machine.reviewHalts p.cells p.drivers (roadPulse m p.markers.time p.road) } := by
  unfold markerPulse
  rw [Part.reviewHalts_eq, Part.onRoad_eq]

theorem markerLevel_part (m : MarkerId) (level : Bool) (p : Part) :
    ∃ k, markerLevel m level p = { p with markers := k }
      ∨ markerLevel m level p
          = { p with markers := k,
                     road := Machine.reviewHalts p.cells p.drivers (roadPulse m p.markers.time p.road) } := by
  unfold markerLevel
  dsimp only
  split
  · exact ⟨_, Or.inr (markerPulse_part _ _)⟩
  · exact ⟨_, Or.inl rfl⟩

/-- A board report keeps what each of its levels keeps. -/
theorem boardReport_keeps {P : Part → Prop} (level : ∀ m b p, P p → P (markerLevel m b p)) (board levels : Byte) (p : Part)
    (h : P p) : P (boardReport board levels p) := by
  unfold boardReport
  split
  · refine foldl_keeps _ p (fun p k _ hp => ?_) h
    split
    · exact level _ _ _ hp
    · exact hp
  · exact h

theorem settleTimerExpiry_part (i : SectionId) (p : Part) :
    ∃ r, settleTimerExpiry i p = { p with road := r } ∧ Road.Kept p.road r := by
  unfold settleTimerExpiry
  split
  · exact ⟨_, rfl, (kept_stopTimer i p.road).trans (kept_reviewSettling _)⟩
  · exact ⟨p.road, rfl, Road.Kept.refl _⟩

/-! ## Driver port -/

theorem validUpdate_part (d : DriverId) (h : Handset) (p : Part) :
    ∃ r, Road.Kept p.road r
      ∧ validUpdate d h p
          = if h.throttle ≠ 0 && p.mode.driverWake then wakeTrigger { p with drivers := p.drivers.set d h, road := r }
            else { p with drivers := p.drivers.set d h, road := r } := by
  have k : ∀ b : Bool, ∃ r, Road.Kept p.road r
      ∧ (if b = true then Part.onRoad (driverHaltEvent d) { p with drivers := p.drivers.set d h }
         else { p with drivers := p.drivers.set d h }).reviewHalts
          = { p with drivers := p.drivers.set d h, road := r } := by
    intro b
    cases b
    · refine ⟨_, ?_, Part.reviewHalts_eq _⟩
      exact kept_reviewHalts _ _ _
    · refine ⟨_, ?_, Part.reviewHalts_eq _⟩
      exact (kept_driverHaltEvent d p.road).trans (kept_reviewHalts _ _ _)
  obtain ⟨r, hr, e⟩ := k (h.halt && !(Table.at p.drivers.handsets d).halt)
  refine ⟨r, hr, ?_⟩
  unfold validUpdate
  dsimp only
  rw [e]

/-- An update changes the driver port and the road, and may be a wake trigger. -/
theorem handsetUpdate_part (driver throttle buttons : Byte) (p : Part) :
    ∃ k r, Road.Kept p.road r
      ∧ (handsetUpdate driver throttle buttons p = { p with drivers := k, road := r }
          ∨ handsetUpdate driver throttle buttons p = wakeTrigger { p with drivers := k, road := r }) := by
  unfold handsetUpdate
  split
  · rename_i d _
    split
    · obtain ⟨r, hr, e⟩ := validUpdate_part d (updatedHandset throttle.toInt buttons) p
      refine ⟨p.drivers.set d (updatedHandset throttle.toInt buttons), r, hr, ?_⟩
      rw [e]
      split
      · exact Or.inr rfl
      · exact Or.inl rfl
    · exact ⟨_, _, Road.Kept.refl _, Or.inl rfl⟩
  · exact ⟨_, _, Road.Kept.refl _, Or.inl rfl⟩

theorem lostTimerExpiry_part (d : DriverId) (p : Part) :
    lostTimerExpiry d p = p
      ∨ ∃ r, Road.Kept (p.road.raise srcDriverLost (subject d.val)) r
          ∧ lostTimerExpiry d p = { p with drivers := p.drivers.set d Handset.lost, road := r } := by
  unfold lostTimerExpiry
  split
  · right
    refine ⟨_, ?_, Part.reviewHalts_eq _⟩
    exact kept_reviewHalts _ _ _
  · exact Or.inl rfl

/-! ## Cells -/

/-- The road after the line and notice part of a scan's report. -/
def scanRoad (p : Part) : Road :=
  (List.finRange 8).foldl (fun r k => edgeNotice p.cells p.scanCells k r)
    (p.road.mapLines (Line.scanReport p.parkHold p.cells p.scanCells))

/-- A scan changes the cells, the pulse marks and the road, and may be a hold trigger. -/
theorem cellScan_part (p : Part) :
    ∃ q, q = { p with cells := p.scanCells, pulses := { minute := false, quarter := false, hour := false }, road := scanRoad p }
      ∧ (cellScan p = q.reviewHalts
          ∨ (p.mode.holdCellRises p.cells p.scanCells = true ∧ cellScan p = (holdTrigger q).reviewHalts)) := by
  refine ⟨_, rfl, ?_⟩
  unfold cellScan
  dsimp only
  split
  · right
    exact ⟨by assumption, rfl⟩
  · left
    rfl

/-! ## Departures and the clock -/

theorem depart_part (c : ConvoyId) (e : Departure) (p : Part) :
    depart c e p
      = { p with road := Machine.reviewHalts p.cells p.drivers
                           (startConvoy c (p.road.updConvoy c (Convoy.underTimetable e.cruise e.ramp))) } := by
  unfold depart
  rw [Part.reviewHalts_eq, Part.onRoad_eq]

/-- What a departure that fires keeps. -/
theorem fireDeparture_keeps {P : Part → Prop} (i : DepartureId) (p : Part)
    (fired : ∀ p, P p → P { p with
      departures := Table.upd p.departures i fun e => { e with fired := true },
      road := p.road.raise srcDepartureFired (subject i.val) })
    (start : ∀ c e p, P p → P (depart c e p)) (miss : ∀ p, P p → P (missed i p))
    (wake : ∀ p, P p → P (wakeTrigger p)) (resume : ∀ p, P p → P (resumeTrigger p)) (h : P p) :
    P (fireDeparture i p) := by
  unfold fireDeparture
  dsimp only
  split
  · unfold startDeparture
    split
    · split
      · exact start _ _ _ (fired p h)
      · exact miss _ (fired p h)
    · exact miss _ (fired p h)
  · exact wake _ (fired p h)
  · exact resume _ (fired p h)
  · exact fired p h

/-- What a minute change keeps. -/
theorem minuteChange_keeps {P : Part → Prop} (p : Part)
    (marked : ∀ t k, P p → P { p with departures := t, pulses := k })
    (fire : ∀ i p, P p → P (fireDeparture i p)) (h : P p) : P (minuteChange p) := by
  unfold minuteChange fireDepartures
  refine foldl_keeps _ _ (fun p i _ hp => ?_) (marked _ _ h)
  split
  · exact fire _ _ hp
  · exact hp

end Sys2Proof.Machine
end

