-- ==== Sys2Proof/Laws/Link.lean ====
section
/-! SUPPORT. What taking a request, the transmitter's choice and the end of an event do, said once. -/

namespace Sys2Proof.Machine

/-! ## The transmitter's choice -/

theorem transmit_sending {s : State} {f : List Byte} {n : Nat} (h : s.link.tx = .sending f n) : transmit s = s := by
  simp [transmit, h]

theorem transmit_reply {s : State} {f : List Byte} (ht : s.link.tx = .idle) (hs : s.link.slot = some f) :
    transmit s = s.onLink (LinkPort.sendReply f) := by
  simp [transmit, ht, hs]

theorem transmit_notice {s : State} {i : SourceId} (ht : s.link.tx = .idle) (hs : s.link.slot = none)
    (hn : s.part.road.notices.next? = some i) : transmit s = sendNotice i s := by
  simp [transmit, ht, hs, hn]

theorem transmit_nothing {s : State} (ht : s.link.tx = .idle) (hs : s.link.slot = none)
    (hn : s.part.road.notices.next? = none) : transmit s = s := by
  simp [transmit, ht, hs, hn]

/-- A choice starts a waiting reply, starts a notice, or does nothing. -/
theorem transmit_cases (s : State) :
    transmit s = s
      ∨ (s.link.tx = .idle ∧ ∃ f, s.link.slot = some f ∧ transmit s = s.onLink (LinkPort.sendReply f))
      ∨ (s.link.tx = .idle ∧ s.link.slot = none
          ∧ ∃ i, s.part.road.notices.next? = some i ∧ transmit s = sendNotice i s) := by
  cases ht : s.link.tx with
  | sending f n => exact Or.inl (transmit_sending ht)
  | idle =>
    cases hs : s.link.slot with
    | some f => exact Or.inr (Or.inl ⟨rfl, f, rfl, transmit_reply ht hs⟩)
    | none =>
      cases hn : s.part.road.notices.next? with
      | some i => exact Or.inr (Or.inr ⟨rfl, rfl, i, rfl, transmit_notice ht hs hn⟩)
      | none => exact Or.inl (transmit_nothing ht hs hn)

/-- After a choice an IDLE transmitter has no reply to send. -/
theorem transmit_idle {s : State} (h : (transmit s).link.tx = .idle) : (transmit s).link.slot = none := by
  rcases transmit_cases s with e | ⟨_, f, _, e⟩ | ⟨_, _, i, _, e⟩
  · rw [e] at h ⊢
    cases hs : s.link.slot with
    | none => rfl
    | some f =>
      rw [transmit_reply h hs] at e
      have := congrArg (fun t => t.link.tx) e
      simp [LinkPort.sendReply, LinkPort.send, h] at this
  · rw [e] at h; simp [LinkPort.sendReply, LinkPort.send] at h
  · rw [e] at h; simp [sendNotice, LinkPort.send] at h

@[simp] theorem transmit_inbound (s : State) : (transmit s).link.inbound = s.link.inbound := by
  rcases transmit_cases s with e | ⟨_, f, _, e⟩ | ⟨_, _, i, _, e⟩ <;> rw [e] <;> rfl

@[simp] theorem transmit_rstTaken (s : State) : (transmit s).link.rstTaken = s.link.rstTaken := by
  rcases transmit_cases s with e | ⟨_, f, _, e⟩ | ⟨_, _, i, _, e⟩ <;> rw [e] <;> rfl

@[simp] theorem transmit_resets (s : State) : (transmit s).resets = s.resets := by
  rcases transmit_cases s with e | ⟨_, f, _, e⟩ | ⟨_, _, i, _, e⟩ <;> rw [e] <;> rfl

@[simp] theorem transmit_pending (s : State) : (transmit s).pending = s.pending := by
  rcases transmit_cases s with e | ⟨_, f, _, e⟩ | ⟨_, _, i, _, e⟩ <;> rw [e] <;> rfl

@[simp] theorem transmit_receiver (s : State) : (transmit s).link.receiver = s.link.receiver := by
  rcases transmit_cases s with e | ⟨_, f, _, e⟩ | ⟨_, _, i, _, e⟩ <;> rw [e] <;> rfl

/-- A choice changes nothing of the part but the notices, where a started notice is marked announced. -/
theorem transmit_part (s : State) :
    (transmit s).part = s.part ∨ ∃ i, (transmit s).part = s.part.onNotices (NoticeControl.announce i) := by
  rcases transmit_cases s with e | ⟨_, f, _, e⟩ | ⟨_, _, i, _, e⟩ <;> rw [e]
  · exact Or.inl rfl
  · exact Or.inl rfl
  · exact Or.inr ⟨i, rfl⟩

/-! ## The end of an event -/

theorem serve_idle {s : State} (n : Nat) (h : s.link.inbound = [] ∨ (transmit s).link.mayTake = false) :
    serve n s = transmit s := by
  cases n with
  | zero => rfl
  | succ n =>
    simp only [serve]
    rcases h with h | h
    · have h' : (transmit s).link.inbound = [] := by simp [h]
      rw [h']
      cases (transmit s).link.mayTake <;> rfl
    · rw [h]

/-- With the link served, the end of an event is one choice of the transmitter. -/
theorem settle_of_served {s : State} (h : Served s) : settle s = transmit s := by
  unfold settle
  apply serve_idle
  obtain ⟨h1, h2⟩ := h
  rcases h1 with h | h | h
  · exact Or.inl h
  · cases ht : s.link.tx with
    | idle =>
      have := (h2 ht).1
      simp [this] at h
    | sending f n =>
      right
      rw [transmit_sending ht]
      cases hs : s.link.slot with
      | none => simp [hs] at h
      | some x => simp [LinkPort.mayTake, hs]
  · right
    simp [LinkPort.mayTake, h]

/-- While a message is on the line a served link does nothing at the end of an event. -/
theorem settle_of_sending {s : State} {f : List Byte} {n : Nat} (h : Served s) (ht : s.link.tx = .sending f n) :
    settle s = s := by
  rw [settle_of_served h, transmit_sending ht]

theorem served_of_eq {s t : State} (h : Served s) (e : t.link = s.link) : Served t := by
  unfold Served at *
  rw [e]
  exact h

/-! ## Requests -/

theorem take_onPart {r : Request} {f : Part → Part × Reply} (s : State) (hk : handle r = onPart f) :
    take r s =
      { s with part := (f s.part).1, link := { s.link with slot := some (replyFrame r.kind r.tag (f s.part).2) } } := by
  simp [take, hk, onPart, State.onLink, LinkPort.queueReply]

/-- A ready part takes a request at once, and its reply is on the line when the event ends. -/
theorem receiveRequest_ready {r : Request} {f : Part → Part × Reply} {s : State} (h : Ready s) (hk : handle r = onPart f) :
    receiveRequest r s = s.replied r.kind r.tag (f s.part).2 (f s.part).1 := by
  obtain ⟨h1, h2, h3, h4, h5⟩ := h
  have ho : offer r s = take r s := by simp [offer, h3, h4, h5]
  have hi : (take r s).link.inbound = [] := by rw [take_onPart s hk]; exact h4
  have ht : (take r s).link.tx = .idle := by rw [take_onPart s hk]; exact h2
  have hs : (take r s).link.slot = some (replyFrame r.kind r.tag (f s.part).2) := by rw [take_onPart s hk]
  have hset : settle (take r s) = transmit (take r s) := serve_idle _ (Or.inl hi)
  simp only [receiveRequest, h1, Bool.false_eq_true, if_false, ho, hset, transmit_reply ht hs]
  rw [take_onPart s hk]
  simp [State.onLink, LinkPort.sendReply, LinkPort.send, lineTime, State.replied, h3]

/-- The same, for a command of exec. -/
theorem request_ready {kind tag : Byte} {body : List Byte} {f : Part → Part × Reply} {s : State} (h : Ready s)
    (hk : handle ⟨kind, tag, body⟩ = onPart f) :
    request kind tag body s = .next (s.replied kind tag (f s.part).2 (f s.part).1) := by
  unfold request
  rw [receiveRequest_ready h hk]

/-- An event at a block of a quiet part: the block's effect, then one choice of the transmitter. -/
theorem partEvent_quiet {s : State} (h : Quiet s) (f : Part → Part) :
    partEvent f s = .next (transmit (s.onPart f)) := by
  obtain ⟨h1, h2⟩ := h
  simp only [partEvent, running, h1, Bool.false_eq_true, if_false]
  rw [settle_of_served (served_of_eq (t := s.onPart f) h2 rfl)]

theorem quietEvent_running {s : State} (h : s.resets.held = false) (f : Part → Part) :
    quietEvent f s = .next (s.onPart f) := by
  simp [quietEvent, running, h]

/-- Nothing happens to a part that is held in reset. -/
theorem request_held {kind tag : Byte} {body : List Byte} {s : State} (h : s.resets.held = true) :
    request kind tag body s = .next s := by
  simp [request, receiveRequest, h]

theorem running_held {s : State} (h : s.resets.held = true) (f : State → State) : running f s = .next s := by
  simp [running, h]

end Sys2Proof.Machine
end

