-- ==== Sys2Proof/Laws/Operands.lean ====
section
/-! SUPPORT. Bytes and codes read back: what is written for a number, a code or a list of fields is what the readers give. -/

namespace Sys2Proof.Machine

/-! ## Numbers -/

theorem b8_toNat {n : Nat} (h : n < 256) : (b8 n).toNat = n := by simp [b8, Nat.mod_eq_of_lt h]

theorem halfOf_bytes {n : Nat} (h : n < 65536) : halfOf (b8 (n / 256)) (b8 n) = n := by
  have h1 : (b8 (n / 256)).toNat = n / 256 := b8_toNat (by omega)
  have h2 : (b8 n).toNat = n % 256 := by simp [b8]
  simp only [halfOf, h1, h2]
  omega

/-- The number of a record, written as a byte, reads as that record. -/
theorem index?_b8 {n : Nat} (i : Fin n) (h : n ≤ 256) : index? n (b8 i.val).toNat = some i := by
  rw [b8_toNat (by have := i.isLt; omega), index?_val]

/-! ## Codes -/

theorem flagOf_flagB (b : Bool) : flagOf? (flagB b).toNat = some b := by cases b <;> rfl
theorem flagOf_toNat (b : Bool) : flagOf? b.toNat = some b := by cases b <;> rfl
theorem dirOf_code (d : Dir) : dirOf? (dirCode d) = some d := by cases d <;> rfl
theorem travelOf_code (t : Travel) : travelOf? (travelCode t) = some t := by cases t <;> rfl
theorem branchOf_code (b : Branch) : branchOf? (branchCode b) = some b := by cases b <;> rfl
theorem sectionKindOf_code (k : SectionKind) : sectionKindOf? (sectionKindCode k) = some k := by cases k <;> rfl
theorem throttleActionOf_code (a : ThrottleAction) : throttleActionOf? (throttleActionCode a) = some a := by cases a <;> rfl
theorem lightsActionOf_code (a : LightsAction) : lightsActionOf? (lightsActionCode a) = some a := by cases a <;> rfl
theorem restartModeOf_code (m : RestartMode) : restartModeOf? (restartModeCode m) = some m := by cases m <;> rfl
theorem modeOf_code (m : Mode) : modeOf? (modeCode m) = some m := by cases m <;> rfl
theorem cellFnOf_code (f : CellFn) : cellFnOf? (cellFnCode f) = some f := by cases f <;> rfl
theorem termOf_code (t : Term) : termOf? (termCode t) = some t := by cases t <;> rfl
theorem pulseOf_code (k : PulseKind) : pulseOf? (pulseCode k) = some k := by cases k <;> rfl
theorem channelModeOf_code (m : ChannelMode) : channelModeOf? (channelModeCode m) = some m := by cases m <;> rfl
theorem lineDirectionOf_code (d : LineDirection) : lineDirectionOf? (lineDirectionCode d) = some d := by cases d <;> rfl
theorem driveOf_code (d : Drive) : driveOf? (driveCode d) = some d := by cases d <;> rfl
theorem departureActionOf_code (a : DepartureAction) : departureActionOf? (departureActionCode a) = some a := by
  cases a <;> rfl
theorem flagsOf_byte (f : ChannelFlags) : flagsOf? (flagsByte f) = some f := by
  cases f with
  | mk a b c d => cases a <;> cases b <;> cases c <;> cases d <;> rfl

/-! ## Lists -/

theorem mapM_map_some {α β γ : Type} {f : β → Option γ} {g : α → β} {h : α → γ} (xs : List α)
    (e : ∀ x ∈ xs, f (g x) = some (h x)) : (xs.map g).mapM f = some (xs.map h) := by
  induction xs with
  | nil => rfl
  | cons x xs ih =>
    rw [List.map_cons, List.mapM_cons, e x (by simp), ih fun y hy => e y (by simp [hy])]
    rfl

/-- Pairs written one after another read back. -/
theorem pairsOf_flatMap {α : Type} (f g : α → Byte) (xs : List α) :
    pairsOf (xs.flatMap fun x => [f x, g x]) = some (xs.map fun x => (f x, g x)) := by
  induction xs with
  | nil => rfl
  | cons x xs ih => simp [List.flatMap_cons, pairsOf, ih]

/-! ## Fields behind a presence mask (R210) -/

theorem maskOf_head (f : Option Nat) (fs : List (Option Nat)) : maskOf (f :: fs) % 2 = f.isSome.toNat := by
  simp only [maskOf]
  cases f <;> simp [Bool.toNat]

theorem maskOf_tail (f : Option Nat) (fs : List (Option Nat)) : maskOf (f :: fs) / 2 = maskOf fs := by
  simp only [maskOf]
  cases f with
  | none => simp [Bool.toNat]
  | some n => simp only [Option.isSome_some, Bool.toNat]; simp; omega

theorem maskOf_lt (fs : List (Option Nat)) : maskOf fs < 2 ^ fs.length := by
  induction fs with
  | nil => simp [maskOf]
  | cons f fs ih =>
    simp only [maskOf, List.length_cons, Nat.pow_succ]
    cases f <;> simp [Bool.toNat] <;> omega

theorem FieldsFit.length {szs : List Nat} {fs : List (Option Nat)} (h : FieldsFit szs fs) : szs.length = fs.length := by
  induction szs generalizing fs with
  | nil => cases fs with
    | nil => rfl
    | cons f fs => exact h.elim
  | cons sz szs ih => cases fs with
    | nil => exact h.elim
    | cons f fs => simp [ih h.2]

/-- Fields written behind their mask read back. -/
theorem readFields_writeFields {szs : List Nat} {fs : List (Option Nat)} (h : FieldsFit szs fs) :
    readFields szs (maskOf fs) (writeFields szs fs) = some fs := by
  induction szs generalizing fs with
  | nil => cases fs with
    | nil => rfl
    | cons f fs => exact h.elim
  | cons sz szs ih => cases fs with
    | nil => exact h.elim
    | cons f fs =>
      unfold readFields
      rw [maskOf_head, maskOf_tail]
      cases f with
      | none => simp [writeFields, Bool.toNat, ih h.2]
      | some n =>
        rcases h.1 n rfl with ⟨rfl, rfl⟩ | ⟨rfl, hn⟩ | ⟨rfl, hn⟩
        · simp [writeFields, fieldBytes, Bool.toNat, ih h.2]
        · simp [writeFields, fieldBytes, Bool.toNat, ih h.2, b8_toNat hn]
        · simp [writeFields, fieldBytes, halfBytes, Bool.toNat, ih h.2, halfOf_bytes hn]

/-- Mask bits that name no field change nothing. -/
theorem readFields_add {szs : List Nat} (k m : Nat) (bs : List Byte) :
    readFields szs (m + 2 ^ szs.length * k) bs = readFields szs m bs := by
  induction szs generalizing m bs with
  | nil => cases bs <;> rfl
  | cons sz szs ih =>
    have h1 : (m + 2 ^ (sz :: szs).length * k) % 2 = m % 2 := by
      rw [List.length_cons, Nat.pow_succ, Nat.mul_comm (2 ^ szs.length) 2, Nat.mul_assoc, Nat.add_mul_mod_self_left]
    have h2 : (m + 2 ^ (sz :: szs).length * k) / 2 = m / 2 + 2 ^ szs.length * k := by
      rw [List.length_cons, Nat.pow_succ, Nat.mul_comm (2 ^ szs.length) 2, Nat.mul_assoc,
        Nat.add_mul_div_left _ _ (by decide)]
    unfold readFields
    rw [h1, h2]
    simp only [ih]

end Sys2Proof.Machine
end

