-- ==== Sys2Proof/Laws/PerInstr.lean ====
section
/-! SUPPORT. What is said of every command as syntax, one lemma per constructor. -/

namespace Sys2Proof.Laws.RequestKinds

/-- A well-formed request has a body a frame can carry, and its kind is one of R208's unless the command is UNKNOWN_KIND; an
event is always well formed. -/
def Statement (i : Instr) : Prop :=
  (i.request? = none → i.wellFormed = true)
  ∧ ∀ kind body, i.request? = some (kind, body) →
      (i.wellFormed = true ↔
        body.length ≤ 60 ∧ (requestKinds.contains kind = false ↔ ∃ tag, i = .unknownKind kind tag body))

theorem of_event (i : Instr) (h : i.request? = none) (hk : i.kindRight = true) : Statement i :=
  ⟨fun _ => by simp [Instr.wellFormed, Instr.bodyFits, h, hk], fun _ _ h' => by simp [h] at h'⟩

theorem of_request (i : Instr) (kind : Byte) (body : List Byte) (h : i.request? = some (kind, body))
    (hk : i.kindRight = true) (hc : requestKinds.contains kind = true) (hn : ∀ tag, i ≠ .unknownKind kind tag body) :
    Statement i :=
  ⟨fun h' => by simp [h] at h', fun k b h' => by
    obtain ⟨rfl, rfl⟩ : kind = k ∧ body = b := by simpa [h] using h'
    simp only [Instr.wellFormed, Instr.bodyFits, h, hk, hc, Bool.and_true, decide_eq_true_eq, hn, exists_false,
      iff_self, and_true, Bool.true_eq_false]⟩

theorem sdef (tag : Byte) (body : List Byte) : Statement (.sdef tag body) :=
  of_request _ _ _ rfl rfl rfl (by simp)

theorem sout (tag : Byte) (body : List Byte) : Statement (.sout tag body) :=
  of_request _ _ _ rfl rfl rfl (by simp)

theorem srst (tag : Byte) (body : List Byte) : Statement (.srst tag body) :=
  of_request _ _ _ rfl rfl rfl (by simp)

theorem sqry (tag : Byte) (body : List Byte) : Statement (.sqry tag body) :=
  of_request _ _ _ rfl rfl rfl (by simp)

theorem smk (tag : Byte) (body : List Byte) : Statement (.smk tag body) :=
  of_request _ _ _ rfl rfl rfl (by simp)

theorem qmk (tag : Byte) (body : List Byte) : Statement (.qmk tag body) :=
  of_request _ _ _ rfl rfl rfl (by simp)

theorem fcv (tag : Byte) (body : List Byte) : Statement (.fcv tag body) :=
  of_request _ _ _ rfl rfl rfl (by simp)

theorem dcv (tag : Byte) (body : List Byte) : Statement (.dcv tag body) :=
  of_request _ _ _ rfl rfl rfl (by simp)

theorem lrt (tag : Byte) (body : List Byte) : Statement (.lrt tag body) :=
  of_request _ _ _ rfl rfl rfl (by simp)

theorem run (tag : Byte) (body : List Byte) : Statement (.run tag body) :=
  of_request _ _ _ rfl rfl rfl (by simp)

theorem stp (tag : Byte) (body : List Byte) : Statement (.stp tag body) :=
  of_request _ _ _ rfl rfl rfl (by simp)

theorem tcv (tag : Byte) (body : List Byte) : Statement (.tcv tag body) :=
  of_request _ _ _ rfl rfl rfl (by simp)

theorem qcv (tag : Byte) (body : List Byte) : Statement (.qcv tag body) :=
  of_request _ _ _ rfl rfl rfl (by simp)

theorem spd (tag : Byte) (body : List Byte) : Statement (.spd tag body) :=
  of_request _ _ _ rfl rfl rfl (by simp)

theorem qdr (tag : Byte) (body : List Byte) : Statement (.qdr tag body) :=
  of_request _ _ _ rfl rfl rfl (by simp)

theorem shl (tag : Byte) (body : List Byte) : Statement (.shl tag body) :=
  of_request _ _ _ rfl rfl rfl (by simp)

theorem hlt (tag : Byte) (body : List Byte) : Statement (.hlt tag body) :=
  of_request _ _ _ rfl rfl rfl (by simp)

theorem rsm (tag : Byte) (body : List Byte) : Statement (.rsm tag body) :=
  of_request _ _ _ rfl rfl rfl (by simp)

theorem scl (tag : Byte) (body : List Byte) : Statement (.scl tag body) :=
  of_request _ _ _ rfl rfl rfl (by simp)

theorem qcl (tag : Byte) (body : List Byte) : Statement (.qcl tag body) :=
  of_request _ _ _ rfl rfl rfl (by simp)

theorem ssl (tag : Byte) (body : List Byte) : Statement (.ssl tag body) :=
  of_request _ _ _ rfl rfl rfl (by simp)

theorem sch (tag : Byte) (body : List Byte) : Statement (.sch tag body) :=
  of_request _ _ _ rfl rfl rfl (by simp)

theorem key (tag : Byte) (body : List Byte) : Statement (.key tag body) :=
  of_request _ _ _ rfl rfl rfl (by simp)

theorem rls (tag : Byte) (body : List Byte) : Statement (.rls tag body) :=
  of_request _ _ _ rfl rfl rfl (by simp)

theorem qsl (tag : Byte) (body : List Byte) : Statement (.qsl tag body) :=
  of_request _ _ _ rfl rfl rfl (by simp)

theorem sfp (tag : Byte) (body : List Byte) : Statement (.sfp tag body) :=
  of_request _ _ _ rfl rfl rfl (by simp)

theorem sln (tag : Byte) (body : List Byte) : Statement (.sln tag body) :=
  of_request _ _ _ rfl rfl rfl (by simp)

theorem wln (tag : Byte) (body : List Byte) : Statement (.wln tag body) :=
  of_request _ _ _ rfl rfl rfl (by simp)

theorem qln (tag : Byte) (body : List Byte) : Statement (.qln tag body) :=
  of_request _ _ _ rfl rfl rfl (by simp)

theorem sck (tag : Byte) (body : List Byte) : Statement (.sck tag body) :=
  of_request _ _ _ rfl rfl rfl (by simp)

theorem rck (tag : Byte) (body : List Byte) : Statement (.rck tag body) :=
  of_request _ _ _ rfl rfl rfl (by simp)

theorem adj (tag : Byte) (body : List Byte) : Statement (.adj tag body) :=
  of_request _ _ _ rfl rfl rfl (by simp)

theorem qck (tag : Byte) (body : List Byte) : Statement (.qck tag body) :=
  of_request _ _ _ rfl rfl rfl (by simp)

theorem sdp (tag : Byte) (body : List Byte) : Statement (.sdp tag body) :=
  of_request _ _ _ rfl rfl rfl (by simp)

theorem qdp (tag : Byte) (body : List Byte) : Statement (.qdp tag body) :=
  of_request _ _ _ rfl rfl rfl (by simp)

theorem mod (tag : Byte) (body : List Byte) : Statement (.mod tag body) :=
  of_request _ _ _ rfl rfl rfl (by simp)

theorem smo (tag : Byte) (body : List Byte) : Statement (.smo tag body) :=
  of_request _ _ _ rfl rfl rfl (by simp)

theorem prl (tag : Byte) (body : List Byte) : Statement (.prl tag body) :=
  of_request _ _ _ rfl rfl rfl (by simp)

theorem qst (tag : Byte) (body : List Byte) : Statement (.qst tag body) :=
  of_request _ _ _ rfl rfl rfl (by simp)

theorem rst (tag : Byte) (body : List Byte) : Statement (.rst tag body) :=
  of_request _ _ _ rfl rfl rfl (by simp)

theorem enn (tag : Byte) (body : List Byte) : Statement (.enn tag body) :=
  of_request _ _ _ rfl rfl rfl (by simp)

theorem dsn (tag : Byte) (body : List Byte) : Statement (.dsn tag body) :=
  of_request _ _ _ rfl rfl rfl (by simp)

theorem prn (tag : Byte) (body : List Byte) : Statement (.prn tag body) :=
  of_request _ _ _ rfl rfl rfl (by simp)

theorem cln (tag : Byte) (body : List Byte) : Statement (.cln tag body) :=
  of_request _ _ _ rfl rfl rfl (by simp)

theorem qnt (tag : Byte) (body : List Byte) : Statement (.qnt tag body) :=
  of_request _ _ _ rfl rfl rfl (by simp)

theorem unknownKind (kind tag : Byte) (body : List Byte) : Statement (.unknownKind kind tag body) :=
  ⟨fun h => by simp [Instr.request?] at h, fun k b h => by
    obtain ⟨rfl, rfl⟩ : kind = k ∧ body = b := by simpa [Instr.request?] using h
    simp [Instr.wellFormed, Instr.bodyFits, Instr.kindRight, Instr.request?]⟩

theorem boardReport (board levels : Byte) : Statement (.boardReport board levels) := of_event _ rfl rfl

theorem holdOffExpiry (marker : MarkerId) : Statement (.holdOffExpiry marker) := of_event _ rfl rfl

theorem markerTimeTick : Statement (.markerTimeTick) := of_event _ rfl rfl

theorem settleTimerExpiry (sec : SectionId) : Statement (.settleTimerExpiry sec) := of_event _ rfl rfl

theorem handsetUpdate (driver throttle buttons : Byte) : Statement (.handsetUpdate driver throttle buttons) := of_event _ rfl rfl

theorem lostTimerExpiry (driver : DriverId) : Statement (.lostTimerExpiry driver) := of_event _ rfl rfl

theorem cellScan : Statement (.cellScan) := of_event _ rfl rfl

theorem oneShotExpiry (cell : CellId) : Statement (.oneShotExpiry cell) := of_event _ rfl rfl

theorem frameStart : Statement (.frameStart) := of_event _ rfl rfl

theorem linePinChange (line : LineId) (pin : PinState) : Statement (.linePinChange line pin) := of_event _ rfl rfl

theorem flashToggle (line : LineId) : Statement (.flashToggle line) := of_event _ rfl rfl

theorem scaleSecond : Statement (.scaleSecond) := of_event _ rfl rfl

theorem byteReceived (b : LineByte) : Statement (.byteReceived b) := of_event _ rfl rfl

theorem gapTimerExpiry : Statement (.gapTimerExpiry) := of_event _ rfl rfl

theorem messageSent : Statement (.messageSent) := of_event _ rfl rfl

theorem powerOn : Statement (.powerOn) := of_event _ rfl rfl

theorem resetLine : Statement (.resetLine) := of_event _ rfl rfl

theorem leaveReset (strap : Strap) (pins : Half) : Statement (.leaveReset strap pins) := of_event _ rfl rfl

theorem supplyBelowOperatingLevel : Statement (.supplyBelowOperatingLevel) := of_event _ rfl rfl

end Sys2Proof.Laws.RequestKinds
end

