-- ==== Sys2Proof/Laws/Resets.lean ====
section
/-! SUPPORT. What leaving a reset does: the after-reset values, and the RESTARTED notice on the line. -/

namespace Sys2Proof.Machine

/-- The only announceable source right after a reset is RESTARTED (R204). -/
theorem next_restarted : NoticeControl.restarted.next? = some srcRestarted := by decide

set_option maxRecDepth 100000 in
/-- The first message after a reset. -/
theorem restarted_notice : noticeFrame 0 srcRestarted 0 = restartedFrame := by decide

theorem afterReset_notices (cause : ResetCause) (pins : Half) (p : Part) :
    (p.afterReset cause pins).road.notices = NoticeControl.restarted := by
  cases cause <;> rfl

/-- Leaving a reset: every block at its after-reset values and RESTARTED on the line. -/
theorem leave_eq (strap : Strap) (pins : Half) (s : State) :
    leave strap pins s =
      { s with
          resets := { held := false, supplyUp := true, supplyRisen := false, lineAsserted := false },
          link := { LinkPort.fresh (rateOf strap) with tx := .sending restartedFrame 1500 },
          part := (s.part.afterReset s.resets.cause pins).onNotices (NoticeControl.announce srcRestarted) } := by
  generalize hp : s.part.afterReset s.resets.cause pins = p
  have hn : p.road.notices = NoticeControl.restarted := by rw [← hp]; exact afterReset_notices _ _ _
  unfold leave
  rw [hp]
  unfold settle
  rw [serve_idle (s := { s with
      resets := { held := false, supplyUp := true, supplyRisen := false, lineAsserted := false },
      link := LinkPort.fresh (rateOf strap), part := p }) _ (Or.inl rfl)]
  rw [transmit_notice (s := { s with
      resets := { held := false, supplyUp := true, supplyRisen := false, lineAsserted := false },
      link := LinkPort.fresh (rateOf strap), part := p }) (i := srcRestarted) rfl rfl (by rw [← next_restarted, ← hn])]
  have hf : p.noticeOf srcRestarted = restartedFrame := by
    unfold Part.noticeOf
    rw [hn, ← restarted_notice]
    rfl
  unfold sendNotice
  simp only [hf, LinkPort.send]
  rfl

end Sys2Proof.Machine
end

