-- ==== Sys2Proof/Laws/RoadAnswers.lean ====
section
/-! SUPPORT. What each answer that acts on the road can do to it, said once: an edit, then what the reports, the arbiter and the
halt unit make of it. -/

namespace Sys2Proof.Machine

/-- The road between a hand-back and the halt unit's review of it. -/
theorem reviewedBack {p : Part} {r r' : Road} (h : Road.HandedBack r r') :
    ∃ q, Part.reviewHalts { p with road := r' } = { p with road := q } ∧ Road.HandedBack r q :=
  ⟨_, Part.reviewHalts_eq _, h.trans (kept_reviewHalts _ _ _).handedBack⟩

/-- The road between an edit and the halt unit's review of it. -/
theorem reviewed {p : Part} {r r' : Road} (h : Road.Kept r r') :
    ∃ q, Part.reviewHalts { p with road := r' } = { p with road := q } ∧ Road.Kept r q :=
  ⟨_, Part.reviewHalts_eq _, h.trans (kept_reviewHalts _ _ _)⟩

theorem answerSdef_road (body : List Byte) (p : Part) :
    ∃ r, (answerSdef body p).1 = { p with road := r }
      ∧ (r = p.road ∨ ∃ i d, r = p.road.setSect i ((p.road.sect i).define d)) := by
  unfold answerSdef sdef defineSection
  dsimp only
  repeat' split
  all_goals first
    | exact ⟨_, rfl, Or.inl rfl⟩
    | exact ⟨_, rfl, Or.inr ⟨_, _, rfl⟩⟩

theorem kept_takeOut (i : SectionId) (r : Road) : Road.Kept (r.setSect i (r.sect i).takenOut) (takeOut i r) := by
  unfold takeOut
  dsimp only
  split
  · exact kept_arbitrate _
  · exact Road.Kept.refl _

theorem Road.handedBack_forceOut (c : ConvoyId) (i : SectionId) (r : Road) :
    Road.HandedBack (r.setSect i (r.sect i).takenOut) (forceOut c i r) :=
  ((kept_leaveHolder [i] _).handedBack.trans (Road.handedBack_forcedLoss c i _)).trans (kept_joinCauses c _ _).handedBack

theorem answerSout_road (body : List Byte) (p : Part) :
    ∃ r, (answerSout body p).1 = { p with road := r }
      ∧ (r = p.road ∨ ∃ i, Road.HandedBack (p.road.setSect i (p.road.sect i).takenOut) r) := by
  unfold answerSout
  split
  · unfold sout
    split
    · rename_i i force _ _
      split
      · exact ⟨_, rfl, Or.inl rfl⟩
      · split
        · obtain ⟨q, e, k⟩ := reviewed (p := p) (kept_takeOut i p.road)
          exact ⟨q, e, Or.inr ⟨i, k.handedBack⟩⟩
        · split
          · rename_i h _ _
            obtain ⟨q, e, k⟩ := reviewedBack (p := p) (Road.handedBack_forceOut h.convoy i p.road)
            exact ⟨q, e, Or.inr ⟨i, k⟩⟩
          · exact ⟨_, rfl, Or.inl rfl⟩
    · exact ⟨_, rfl, Or.inl rfl⟩
  · exact ⟨_, rfl, Or.inl rfl⟩

theorem kept_restore (i : SectionId) (r : Road) : Road.Kept (freeSection i r) (restore i r) := kept_arbitrate _

/-- SRST of a held section frees it or restores its counts; the rest keeps what the edit leaves. -/
theorem kept_restoreHeld (i : SectionId) (h : Holding) (entered exited : Nat) (r : Road) :
    Road.Kept (if exited = (r.convoy h.convoy).memberCount then freeSection i r
               else r.setSect i { r.sect i with status := h.restoredStatus entered exited })
      (restoreHeld i h entered exited r) := by
  unfold restoreHeld
  split
  · exact ((kept_leaveHolder [i] _).trans (kept_releaseReport h.convoy i _)).trans (kept_arbitrate _)
  · exact kept_restorationReport _ _ _ _

theorem answerSrst_road (body : List Byte) (p : Part) :
    ∃ r, (answerSrst body p).1 = { p with road := r }
      ∧ (r = p.road ∨ (∃ i, Road.Kept (freeSection i p.road) r)
          ∨ ∃ i k h entered exited, (p.road.sect i).status = .fault k (some h) ∧ exited ≤ entered
              ∧ entered ≤ (p.road.convoy h.convoy).memberCount
              ∧ Road.Kept (p.road.setSect i { p.road.sect i with status := h.restoredStatus entered exited }) r) := by
  unfold answerSrst
  split
  · rename_i sec entered exited
    unfold srst
    split
    · exact ⟨_, rfl, Or.inl rfl⟩
    · rename_i i _
      split
      · obtain ⟨q, e, k⟩ := reviewed (p := p) (kept_restore i p.road)
        exact ⟨q, e, Or.inr (Or.inl ⟨i, k⟩)⟩
      · obtain ⟨q, e, k⟩ := reviewed (p := p) (kept_restore i p.road)
        exact ⟨q, e, Or.inr (Or.inl ⟨i, k⟩)⟩
      · rename_i cause h hs
        split
        · exact ⟨_, rfl, Or.inl rfl⟩
        · rename_i hc
          obtain ⟨q, e, k⟩ := reviewed (p := p) (kept_restoreHeld i h entered.toNat exited.toNat p.road)
          refine ⟨q, e, Or.inr ?_⟩
          split at k
          · exact Or.inl ⟨i, k⟩
          · simp only [Bool.or_eq_true, decide_eq_true_eq, not_or, Nat.not_lt] at hc
            exact Or.inr ⟨i, cause, h, _, _, hs, hc.1, hc.2, k⟩
      · exact ⟨_, rfl, Or.inl rfl⟩
  · exact ⟨_, rfl, Or.inl rfl⟩

theorem kept_formConvoy (f : Formation) (d : SectionDef) (r : Road) :
    Road.Kept ((r.updConvoy f.convoy (Convoy.form f (r.homeBranch d))).setSect f.home ((r.sect f.home).home f))
      (formConvoy f d r) := by
  unfold formConvoy
  dsimp only
  split
  · exact kept_arbitrate _
  · exact Road.Kept.refl _

theorem answerFcv_road (body : List Byte) (p : Part) :
    ∃ r, (answerFcv body p).1 = { p with road := r }
      ∧ (r = p.road ∨ ∃ f d, (p.road.convoy f.convoy).state.formed = false ∧ (p.road.sect f.home).status = .free
          ∧ Road.Kept
              ((p.road.updConvoy f.convoy (Convoy.form f (p.road.homeBranch d))).setSect f.home ((p.road.sect f.home).home f))
              r) := by
  unfold answerFcv
  split
  · unfold fcv
    split
    · exact ⟨_, rfl, Or.inl rfl⟩
    · rename_i f _
      split
      · exact ⟨_, rfl, Or.inl rfl⟩
      · rename_i hf
        split
        · exact ⟨_, rfl, Or.inl rfl⟩
        · split
          · rename_i d hs _
            split
            · obtain ⟨q, e, k⟩ := reviewed (p := p) (kept_formConvoy f d p.road)
              exact ⟨q, e, Or.inr ⟨f, d, by simpa using hf, hs, k⟩⟩
            · exact ⟨_, rfl, Or.inl rfl⟩
          · exact ⟨_, rfl, Or.inl rfl⟩
  · exact ⟨_, rfl, Or.inl rfl⟩

/-- DCV withdraws, puts the held sections OUT, and makes the convoy VACANT; between and after these the road is kept. -/
theorem answerDcv_road (body : List Byte) (p : Part) :
    ∃ r, (answerDcv body p).1 = { p with road := r }
      ∧ (r = p.road ∨ ∃ c q q', Road.Kept p.road q
          ∧ Road.Kept ((q.heldSections c).foldl (fun r i => disbandSection i r) q) q'
          ∧ Road.Kept (q'.setConvoy c Convoy.vacant) r) := by
  unfold answerDcv
  split
  · unfold dcv
    split
    · exact ⟨_, rfl, Or.inl rfl⟩
    · rename_i c _
      split
      · obtain ⟨q, e, k⟩ := reviewed (p := p) (r := disband c p.road) (Road.Kept.refl _)
        exact ⟨q, e, Or.inr ⟨c, _, _, kept_withdrawAsked c p.road, kept_leaveHolder _ _, k⟩⟩
      · exact ⟨_, rfl, Or.inl rfl⟩
  · exact ⟨_, rfl, Or.inl rfl⟩

theorem answerLrt_road (body : List Byte) (p : Part) :
    ∃ r, (answerLrt body p).1 = { p with road := r }
      ∧ (r = p.road ∨ ∃ c i h steps, p.road.standsIn c = some (i, h) ∧ p.road.routeValid i steps = true
          ∧ r = loadRoute c i h steps p.road) := by
  unfold answerLrt
  split
  · unfold lrt
    split
    · exact ⟨_, rfl, Or.inl rfl⟩
    · split
      · exact ⟨_, rfl, Or.inl rfl⟩
      · split
        · exact ⟨_, rfl, Or.inr ⟨_, _, _, _, by assumption, by assumption, rfl⟩⟩
        · exact ⟨_, rfl, Or.inl rfl⟩
  · exact ⟨_, rfl, Or.inl rfl⟩

theorem answerRun_road (body : List Byte) (p : Part) :
    ∃ r, (answerRun body p).1 = { p with road := r } ∧ Road.Kept p.road r := by
  unfold answerRun
  split
  · unfold run
    split
    · exact ⟨_, rfl, Road.Kept.refl _⟩
    · rename_i c _
      split
      · exact ⟨_, rfl, Road.Kept.refl _⟩
      · split
        · exact ⟨_, rfl, Road.Kept.refl _⟩
        · exact reviewed (p := p) (kept_startConvoy c p.road)
  · exact ⟨_, rfl, Road.Kept.refl _⟩

theorem answerStp_road (body : List Byte) (p : Part) :
    ∃ r, (answerStp body p).1 = { p with road := r } ∧ Road.HandedBack p.road r := by
  unfold answerStp
  split
  · unfold stp
    split
    · exact ⟨_, rfl, Road.HandedBack.refl _⟩
    · rename_i c _
      split
      · exact reviewedBack (p := p) (Road.handedBack_stopConvoy c p.road)
      · exact ⟨_, rfl, Road.HandedBack.refl _⟩
  · exact ⟨_, rfl, Road.HandedBack.refl _⟩

theorem answerTcv_road (body : List Byte) (p : Part) :
    ∃ r, (answerTcv body p).1 = { p with road := r }
      ∧ (r = p.road ∨ ∃ c q, Road.Kept (p.road.updConvoy c (Convoy.tuned q)) r) := by
  unfold answerTcv
  split
  · unfold tcv
    split
    · exact ⟨_, rfl, Or.inl rfl⟩
    · rename_i q _ _ c _
      dsimp only
      split
      · exact ⟨_, rfl, Or.inl rfl⟩
      · split
        · exact ⟨_, rfl, Or.inl rfl⟩
        · split
          · exact ⟨_, rfl, Or.inl rfl⟩
          · obtain ⟨x, e, k⟩ := reviewed (p := p) (r := p.road.updConvoy c (Convoy.tuned q)) (Road.Kept.refl _)
            exact ⟨x, e, Or.inr ⟨c, q, k⟩⟩
  · exact ⟨_, rfl, Or.inl rfl⟩

theorem answerSpd_road (body : List Byte) (p : Part) :
    ∃ r, (answerSpd body p).1 = { p with road := r }
      ∧ (r = p.road ∨ ∃ c n, r = p.road.updConvoy c fun v => { v with hostSpeed := n }) := by
  unfold answerSpd spd
  repeat' split
  all_goals first
    | exact ⟨_, rfl, Or.inl rfl⟩
    | exact ⟨_, rfl, Or.inr ⟨_, _, rfl⟩⟩

theorem answerShl_road (body : List Byte) (p : Part) :
    ∃ r, (answerShl body p).1 = { p with road := r }
      ∧ (r = p.road ∨ ∃ c n t l m, Road.Kept (p.road.updConvoy c (Convoy.setHalt (HaltRecord.configured n t l m))) r) := by
  unfold answerShl
  split
  · rename_i q _
    unfold shl
    split
    · rename_i c t l m _ _ _ _
      split
      · exact ⟨_, rfl, Or.inl rfl⟩
      · split
        · exact ⟨_, rfl, Or.inl rfl⟩
        · obtain ⟨x, e, k⟩ := reviewed (p := p)
            (r := p.road.updConvoy c (Convoy.setHalt (HaltRecord.configured q.sources t l m))) (Road.Kept.refl _)
          exact ⟨x, e, Or.inr ⟨c, _, t, l, m, k⟩⟩
    · exact ⟨_, rfl, Or.inl rfl⟩
  · exact ⟨_, rfl, Or.inl rfl⟩

theorem answerHlt_road (body : List Byte) (p : Part) :
    ∃ r, (answerHlt body p).1 = { p with road := r } ∧ Road.Kept p.road r := by
  unfold answerHlt hlt
  dsimp only
  repeat' split
  all_goals first
    | exact ⟨_, rfl, Road.Kept.refl _⟩
    | exact ⟨_, rfl, kept_joinCauses _ _ _⟩

theorem answerRsm_road (body : List Byte) (p : Part) :
    ∃ r, (answerRsm body p).1 = { p with road := r } ∧ Road.Kept p.road r := by
  unfold answerRsm
  split
  · unfold rsm
    split
    · exact ⟨_, rfl, Road.Kept.refl _⟩
    · rename_i c _
      dsimp only
      split
      · exact ⟨_, rfl, Road.Kept.refl _⟩
      · split
        · exact ⟨_, rfl, Road.Kept.refl _⟩
        · exact reviewed (p := p) (kept_haltEnd c p.road)
  · exact ⟨_, rfl, Road.Kept.refl _⟩

theorem answerWln_road (body : List Byte) (p : Part) :
    ∃ r, (answerWln body p).1 = { p with road := r } ∧ (r = p.road ∨ ∃ l v, r = p.road.setLine l v) := by
  unfold answerWln wln
  repeat' split
  all_goals first
    | exact ⟨_, rfl, Or.inl rfl⟩
    | exact ⟨_, rfl, Or.inr ⟨_, _, rfl⟩⟩

/-- ENN, DSN and PRN change the notice sources alone, and of them only enable and priority. -/
theorem answerEnn_road (body : List Byte) (p : Part) :
    ∃ srcs, (answerEnn body p).1 = p
      ∨ (answerEnn body p).1 = p.onNotices (NoticeControl.eachOf (NoticeSource.enable true) srcs) := by
  unfold answerEnn listRequest
  repeat' split
  all_goals first
    | exact ⟨[], Or.inl rfl⟩
    | exact ⟨_, Or.inr rfl⟩

theorem answerDsn_road (body : List Byte) (p : Part) :
    ∃ srcs, (answerDsn body p).1 = p
      ∨ (answerDsn body p).1 = p.onNotices (NoticeControl.eachOf (NoticeSource.enable false) srcs) := by
  unfold answerDsn listRequest
  repeat' split
  all_goals first
    | exact ⟨[], Or.inl rfl⟩
    | exact ⟨_, Or.inr rfl⟩

theorem answerPrn_road (body : List Byte) (p : Part) :
    ∃ es, (answerPrn body p).1 = p ∨ (answerPrn body p).1 = p.onNotices (NoticeControl.prioritised es) := by
  unfold answerPrn
  repeat' split
  all_goals first
    | exact ⟨[], Or.inl rfl⟩
    | exact ⟨_, Or.inr rfl⟩

/-! ## A pulse on the road (R16 to R20) -/

theorem kept_pulseReport (before : Road) (after : Table Section 64) (time : Half) (i : SectionId) (r : Road) :
    Road.Kept r (pulseReport before after time i r) := by
  unfold pulseReport
  split
  · exact kept_entryReport _ _ _ _ _ _
  · split
    · exact kept_releaseReport _ _ _
    · exact Road.Kept.refl _

/-- A pulse sets the sections as counted, raises SECTION_FAULT and STRAY_PULSE, and the rest is kept. -/
theorem roadPulse_road (m : MarkerId) (time : Half) (r : Road) :
    ∃ released fs ss, Road.Kept ((((leaveHolder released { r with sections := r.pulsed m time }).raiseAll srcSectionFault fs).raiseAll
      srcStrayPulse ss)) (roadPulse m time r) := by
  unfold roadPulse
  dsimp only
  refine ⟨changedSections r.sections (r.pulsed m time) fun b a => (releasedFrom b a).isSome,
    (changedSections r.sections (r.pulsed m time) fun b a => a.status.isFault && !b.status.isFault).map Fin.val,
    (changedSections r.sections (r.pulsed m time) fun b a =>
      a.status = .fault .stray none && !b.status.isFault).map Fin.val, ?_⟩
  split
  · exact Road.Kept.foldl _ _ fun r i _ => kept_pulseReport _ _ _ _ _
  · exact (Road.Kept.foldl _ _ fun r i _ => kept_pulseReport _ _ _ _ _).trans (kept_arbitrate _)

end Sys2Proof.Machine
end

