-- ==== Sys2Proof/Laws/Step.lean ====
section
/-! SUPPORT. What a step can do, said once: the answers of the blocks, and the rule that a law of the part which every answer
and every event keeps is kept by every step. -/

namespace Sys2Proof.Machine

/-! ## The answers of the blocks -/

/-- The answers of the blocks of the part, for a request body. -/
def partAnswers (body : List Byte) : List (Part → Part × Reply) :=
  queryAnswers body ++ roadAnswers body ++ slotAnswers body
    ++ [answerSmk body, answerScl body, answerSsl body, answerSln body, answerSck body, answerRck body, answerAdj body, answerSdp body,
        answerMod body, answerSmo body, answerPrl body]

/-- A request is answered by a block of the part, or it is QST, RST, CLN or of no kind. -/
theorem handle_cases (r : Request) :
    (∃ f ∈ partAnswers r.body, handle r = onPart f) ∨ handle r = answerQst r.body ∨ handle r = answerRst r.body
      ∨ handle r = answerCln r.body ∨ handle r = fun s => (s, Reply.bare .badKind) := by
  unfold handle
  split <;> first
    | exact Or.inl ⟨_, by simp [partAnswers, queryAnswers, roadAnswers, slotAnswers], rfl⟩
    | exact Or.inr (Or.inl rfl)
    | exact Or.inr (Or.inr (Or.inl rfl))
    | exact Or.inr (Or.inr (Or.inr (Or.inl rfl)))
    | exact Or.inr (Or.inr (Or.inr (Or.inr rfl)))

/-- What a handled request changes of the link port: CLN may zero the counts, RST is marked, and nothing else. -/
theorem handle_link (r : Request) (s : State) :
    (handle r s).1.link = s.link ∨ (handle r s).1.link = s.link.zeroCounts
      ∨ (handle r s).1.link = { s.link with rstTaken := true } := by
  rcases handle_cases r with ⟨f, _, e⟩ | e | e | e | e <;> rw [e]
  · exact Or.inl rfl
  · unfold answerQst
    split <;> exact Or.inl rfl
  · unfold answerRst
    split
    · exact Or.inr (Or.inr rfl)
    · exact Or.inl rfl
  · unfold answerCln
    split
    · exact Or.inl rfl
    · split
      · exact Or.inl rfl
      · dsimp only
        split
        · exact Or.inr (Or.inl rfl)
        · exact Or.inl rfl
  · exact Or.inl rfl

/-- A request command is the arrival of its request. -/
theorem exec_request {c : Instr} {r : Request} (h : asRequest? c = some r) (s : State) :
    exec c s = .next (receiveRequest r s) := by
  cases c <;> simp [asRequest?] at h <;> subst h <;> rfl

/-- No request reads or changes what is on the line, the reply slot or the inbound queue. -/
theorem handle_line (r : Request) (tx : Transmitter) (slot : Option (List Byte)) (inbound : List Request) (s : State) :
    handle r { s with link := { s.link with tx := tx, slot := slot, inbound := inbound } }
      = ({ (handle r s).1 with link := { (handle r s).1.link with tx := tx, slot := slot, inbound := inbound } },
         (handle r s).2) := by
  rcases handle_cases r with ⟨f, _, e⟩ | e | e | e | e <;> rw [e]
  · rfl
  · unfold answerQst; split <;> rfl
  · unfold answerRst; split <;> rfl
  · unfold answerCln; split
    · rfl
    · split
      · rfl
      · dsimp only; split <;> rfl

/-- A ready part handles a request at once and sends its reply, whatever block answers. -/
theorem receiveRequest_ready_state {r : Request} {s : State} (h : Ready s) :
    receiveRequest r s
      = (handle r s).1.onLink (LinkPort.sendReply (replyFrame r.kind r.tag (handle r s).2)) := by
  obtain ⟨h1, h2, h3, h4, h5⟩ := h
  have ho : offer r s = take r s := by simp [offer, h3, h4, h5]
  have hl : (handle r s).1.link.inbound = [] ∧ (handle r s).1.link.tx = .idle := by
    rcases handle_link r s with e | e | e <;> rw [e] <;> exact ⟨h4, h2⟩
  have hset : settle (take r s) = transmit (take r s) := serve_idle _ (Or.inl hl.1)
  simp only [receiveRequest, h1, Bool.false_eq_true, if_false, ho, hset]
  rw [transmit_reply (s := take r s) hl.2 rfl]
  rfl

/-- What a request of any kind does where the transmitter is IDLE and nothing waits, in words of the state without those three. -/
theorem receiveRequest_idle {r : Request} {s : State} (hh : s.resets.held = false) (hr : s.link.rstTaken = false) :
    let reply := replyFrame r.kind r.tag (handle r s).2
    receiveRequest r { s with link := { s.link with tx := .idle, slot := none, inbound := [] } } = { (handle r s).1 with
      link := { (handle r s).1.link with tx := .sending reply (reply.length * 100), slot := none, inbound := [] } } := by
  intro reply
  have h : Ready { s with link := { s.link with tx := .idle, slot := none, inbound := [] } } := ⟨hh, rfl, rfl, rfl, hr⟩
  rw [receiveRequest_ready_state h, handle_line]
  rfl

/-- A request command of a ready part that a block of the part answers. -/
theorem exec_ready {c : Instr} {r : Request} {f : Part → Part × Reply} {s : State} (hc : asRequest? c = some r) (hs : Ready s)
    (hk : handle r = onPart f) : exec c s = .next (s.replied r.kind r.tag (f s.part).2 (f s.part).1) := by
  rw [exec_request hc, receiveRequest_ready hs hk]

/-- With a message on the line and no room to take a request, nothing happens at the end of an event. -/
theorem settle_of_full {s : State} {f : List Byte} {n : Nat} (ht : s.link.tx = .sending f n)
    (h : s.link.slot.isSome = true ∨ s.link.rstTaken = true) : settle s = s := by
  unfold settle
  rw [serve_idle, transmit_sending ht]
  right
  rw [transmit_sending ht]
  rcases h with h | h
  · cases hs : s.link.slot with
    | none => simp [hs] at h
    | some x => simp [LinkPort.mayTake, hs]
  · simp [LinkPort.mayTake, h]

/-! ## Laws of the part -/

/-- A law that every answer, every event, every reset and the passing of time keep. -/
structure PartLaw (P : Part → Prop) : Prop where
  answer : ∀ body f, f ∈ partAnswers body → ∀ p, P p → P (f p).1
  cleared : ∀ srcs p, P p → P (p.onNotices (NoticeControl.eachOf NoticeSource.cleared srcs))
  announced : ∀ i p, p.road.notices.next? = some i → P p → P (p.onNotices (NoticeControl.announce i))
  linkError : ∀ p, P p → P (p.onRoad (Road.raise srcLinkError 0))
  boardReport : ∀ b l p, P p → P (boardReport b l p)
  holdOffExpiry : ∀ m p, P p → P (holdOffExpiry m p)
  markerTimeTick : ∀ p, P p → P (markerTimeTick p)
  settleTimerExpiry : ∀ i p, P p → P (settleTimerExpiry i p)
  handsetUpdate : ∀ d t b p, P p → P (handsetUpdate d t b p)
  lostTimerExpiry : ∀ d p, P p → P (lostTimerExpiry d p)
  cellScan : ∀ p, P p → P (cellScan p)
  oneShotExpiry : ∀ k p, P p → P (oneShotExpiry k p)
  frameStart : ∀ p, P p → P (frameStart p)
  linePinChange : ∀ l v p, P p → P (linePinChange l v p)
  wire : ∀ l v p, P p → P (p.setLine l { p.line l with wire := v })
  flashToggle : ∀ l p, P p → P (flashToggle l p)
  scaleSecond : ∀ p, P p → P (scaleSecond p)
  discarded : ∀ p, P p → P p.discarded
  afterReset : ∀ cause pins p, P p → P (p.afterReset cause pins)
  aged : ∀ p, P p → P p.aged

variable {P : Part → Prop} (law : PartLaw P)
include law

theorem PartLaw.transmit {s : State} (h : P s.part) : P (transmit s).part := by
  rcases transmit_cases s with e | ⟨_, f, _, e⟩ | ⟨_, _, i, hi, e⟩ <;> rw [e]
  · exact h
  · exact h
  · exact law.announced i s.part hi h

theorem PartLaw.handle {s : State} (r : Request) (h : P s.part) : P (handle r s).1.part := by
  rcases handle_cases r with ⟨f, hf, e⟩ | e | e | e | e <;> rw [e]
  · exact law.answer _ f hf _ h
  · unfold answerQst
    split <;> exact h
  · unfold answerRst
    split <;> exact h
  · unfold answerCln
    split
    · exact h
    · split
      · exact h
      · exact law.cleared _ _ h
  · exact h

theorem PartLaw.serve (n : Nat) {s : State} (h : P s.part) : P (serve n s).part := by
  induction n generalizing s with
  | zero => exact law.transmit h
  | succ n ih =>
    unfold Machine.serve
    dsimp only
    split
    · exact ih (law.handle _ (law.transmit h))
    · exact law.transmit h

theorem PartLaw.settle {s : State} (h : P s.part) : P (settle s).part := law.serve _ h

theorem PartLaw.offer {s : State} (r : Request) (h : P s.part) : P (offer r s).part := by
  unfold Machine.offer
  split
  · exact h
  · split
    · exact law.handle r h
    · split
      · exact h
      · exact law.linkError _ h

theorem PartLaw.abandon {s : State} (h : P s.part) : P (abandon s).part := law.linkError _ h

omit law in
theorem huntByte_part (b : Byte) (s : State) : (huntByte b s).part = s.part := by
  unfold huntByte
  split <;> rfl

theorem PartLaw.receiveByte {s : State} (b : LineByte) (h : P s.part) : P (receiveByte b s).part := by
  unfold Machine.receiveByte
  split
  · exact h
  · split
    · rw [huntByte_part]; exact h
    · exact h
    · unfold lengthByte
      split
      · exact h
      · rw [huntByte_part]; exact law.abandon h
    · exact law.abandon h
    · unfold bodyByte
      split
      · unfold completeFrame
        dsimp only
        split
        · split
          · exact law.offer _ h
          · exact h
        · exact law.linkError _ h
      · exact h
    · exact law.abandon h

theorem PartLaw.gapExpiry {s : State} (h : P s.part) : P (gapExpiry s).part := by
  unfold Machine.gapExpiry
  split
  · exact h
  · split
    · exact h
    · exact law.abandon h

theorem PartLaw.messageSent {s : State} (h : P s.part) : P (messageSent s).part := by
  unfold Machine.messageSent
  split
  · exact h
  · split
    · exact law.discarded _ h
    · exact law.settle (s := s.onLink fun l => { l with tx := .idle }) h

omit law in
theorem PartLaw.running {f : State → State} {s t : State} (h : P s.part) (hf : P (f s).part) (e : running f s = .next t) :
    P t.part := by
  unfold Machine.running at e
  cases e
  split
  · exact h
  · exact hf

omit law in
theorem PartLaw.quietEvent {f : Part → Part} {s t : State} (h : P s.part) (hf : P (f s.part)) (e : quietEvent f s = .next t) :
    P t.part :=
  PartLaw.running (f := State.onPart f) h hf e

theorem PartLaw.partEvent {f : Part → Part} {s t : State} (h : P s.part) (hf : P (f s.part)) (e : partEvent f s = .next t) :
    P t.part :=
  PartLaw.running h (law.settle (s := s.onPart f) hf) e

theorem PartLaw.request {k tag : Byte} {body : List Byte} {s t : State} (h : P s.part) (e : request k tag body s = .next t) :
    P t.part := by
  unfold Machine.request receiveRequest at e
  cases e
  split
  · exact h
  · exact law.settle (law.offer _ h)

theorem PartLaw.exec {c : Instr} {s t : State} (h : P s.part) (e : exec c s = .next t) : P t.part := by
  cases c <;> simp only [Machine.exec] at e
  case boardReport b l => exact law.partEvent h (law.boardReport _ _ _ h) e
  case holdOffExpiry m => exact PartLaw.quietEvent h (law.holdOffExpiry _ _ h) e
  case markerTimeTick => exact PartLaw.quietEvent h (law.markerTimeTick _ h) e
  case settleTimerExpiry i => exact law.partEvent h (law.settleTimerExpiry _ _ h) e
  case handsetUpdate d t b => exact law.partEvent h (law.handsetUpdate _ _ _ _ h) e
  case lostTimerExpiry d => exact law.partEvent h (law.lostTimerExpiry _ _ h) e
  case cellScan => exact law.partEvent h (law.cellScan _ h) e
  case oneShotExpiry k => exact PartLaw.quietEvent h (law.oneShotExpiry _ _ h) e
  case frameStart => exact law.partEvent h (law.frameStart _ h) e
  case linePinChange l v =>
    unfold execLinePinChange at e
    split at e
    · cases e; exact law.wire _ _ _ h
    · exact law.partEvent h (law.linePinChange _ _ _ h) e
  case flashToggle l => exact PartLaw.quietEvent h (law.flashToggle _ _ h) e
  case scaleSecond => exact law.partEvent h (law.scaleSecond _ h) e
  case byteReceived b => exact PartLaw.running (f := fun s => Machine.settle (Machine.receiveByte b s)) h (law.settle (law.receiveByte b h)) e
  case gapTimerExpiry => exact PartLaw.running (f := fun s => Machine.settle (Machine.gapExpiry s)) h (law.settle (law.gapExpiry h)) e
  case messageSent => exact PartLaw.running h (law.messageSent h) e
  case powerOn => cases e; exact law.discarded _ h
  case resetLine => cases e; exact law.discarded _ h
  case leaveReset a b =>
    cases e
    unfold leaveReset
    split
    · exact law.settle (law.afterReset _ _ _ h)
    · exact h
  case supplyBelowOperatingLevel => cases e; exact law.discarded _ h
  all_goals exact law.request h e

/-- A law that every answer, event and reset keeps is kept by every step. -/
theorem PartLaw.step {s t : State} (h : P s.part) (e : step s = .next t) : P t.part := by
  unfold Machine.step at e
  split at e
  · rename_i c rest _
    exact law.exec (s := { s with pending := rest }) h e
  · cases e
    unfold millisecond
    split
    · exact h
    · exact law.aged _ h

end Sys2Proof.Machine
end

