-- ==== Sys2Proof/Laws/Steps.lean ====
section
/-! SUPPORT. Which steps of a route a list of step numbers names, and what the giving back of sections comes to where nothing is
held or nothing settles; and a convoy that asks for nothing is given nothing. -/

namespace Sys2Proof.Machine

/-- A number is listed exactly where the route, counted from `n`, has a step there that meets the test. -/
theorem mem_stepNumbersFrom (f : RouteStep → Bool) : ∀ (ts : List RouteStep) (n k : Nat),
    k ∈ stepNumbersFrom f n ts ↔ n ≤ k ∧ ∃ t, ts[k - n]? = some t ∧ f t = true := by
  intro ts
  induction ts with
  | nil => intro n k; simp [stepNumbersFrom]
  | cons t ts ih =>
    intro n k
    have hk : ∀ k, k ∈ stepNumbersFrom f (n+1) ts ↔ n + 1 ≤ k ∧ ∃ t', (t :: ts)[k - n]? = some t' ∧ f t' = true := by
      intro k; rw [ih]
      constructor
      · rintro ⟨h, h2⟩
        refine ⟨h, ?_⟩
        have : k - n = (k - (n+1)) + 1 := by omega
        rw [this, List.getElem?_cons_succ]; exact h2
      · rintro ⟨h, h2⟩
        refine ⟨h, ?_⟩
        have : k - n = (k - (n+1)) + 1 := by omega
        rw [this, List.getElem?_cons_succ] at h2; exact h2
    unfold stepNumbersFrom
    split
    · rename_i hf
      rw [List.mem_cons, hk]
      constructor
      · rintro (rfl | ⟨h, h2⟩)
        · simp [hf]
        · exact ⟨by omega, h2⟩
      · rintro ⟨h, h2⟩
        by_cases he : k = n
        · exact Or.inl he
        · exact Or.inr ⟨by omega, h2⟩
    · rename_i hf
      rw [hk]
      constructor
      · rintro ⟨h, h2⟩; exact ⟨by omega, h2⟩
      · rintro ⟨h, h2⟩
        refine ⟨?_, h2⟩
        by_contra hlt
        have : k - n = 0 := by omega
        rw [this] at h2; simp at h2; exact hf h2

/-- Which numbers `stepNumbers` lists. -/
theorem Convoy.mem_stepNumbers (v : Convoy) (f) (k) : k ∈ v.stepNumbers f ↔ ∃ t, v.route[k]? = some t ∧ f t = true := by
  unfold Convoy.stepNumbers; rw [mem_stepNumbersFrom]; simp

/-- The numbers rise. -/
theorem stepNumbersFrom_sorted (f : RouteStep → Bool) : ∀ (ts : List RouteStep) (n), (stepNumbersFrom f n ts).Pairwise (· <
    ·) := by
  intro ts; induction ts with
  | nil => intro n; exact List.Pairwise.nil
  | cons t ts ih =>
    intro n; unfold stepNumbersFrom; split
    · rw [List.pairwise_cons]; refine ⟨?_, ih _⟩
      intro k hk; rw [mem_stepNumbersFrom] at hk; omega
    · exact ih _

theorem RouteStep.isHeld_iff (t : RouteStep) : t.isHeld = true
    ↔ t.status = .settling ∨ t.status = .held := by simp [RouteStep.isHeld]

/-- Nothing is held beyond the lead step exactly where no later step is SETTLING or HELD. -/
theorem Convoy.holdsBeyondLead_iff (v : Convoy) : v.holdsBeyondLead = false
    ↔ ∀ n t, v.lead < n → v.route[n]? = some t → t.status ≠ .settling ∧ t.status ≠ .held := by
  unfold Convoy.holdsBeyondLead
  rw [List.any_eq_false]
  simp only [Convoy.mem_stepNumbers, RouteStep.isHeld_iff, decide_eq_true_eq]
  constructor
  · intro h n t hn ht
    rw [← not_or]; intro h'; exact h n ⟨t, ht, h'⟩ hn
  · rintro h n ⟨t, ht, h'⟩ hn
    have := h n t hn ht; rcases h' with h' | h'; exact this.1 h'; exact this.2 h'

/-- What RUN asks of a convoy that may start, step by step (R59). -/
theorem Convoy.startable_iff (v : Convoy) : v.startable = true ↔ v.state = .plain .standing ∧ v.lead + 1 < v.route.length
      ∧ ∀ n t, v.lead < n → v.route[n]? = some t → t.status ≠ .settling ∧ t.status ≠ .held := by
  unfold Convoy.startable Convoy.lastStep
  rw [← Convoy.holdsBeyondLead_iff]
  simp only [Bool.and_eq_true, decide_eq_true_eq, Bool.not_eq_true', and_assoc]
  have : v.lead < v.route.length - 1 ↔ v.lead + 1 < v.route.length := by omega
  rw [this]

/-- `heldStepOf` finds the first step of the section that is SETTLING or HELD, and nothing where there is none. -/
theorem Convoy.heldStepOf_iff (v : Convoy) (i : SectionId) :
    (v.heldStepOf i = none ↔ ∀ j : Nat, ¬ ∃ t : RouteStep, v.route[j]? = some t ∧ t.sec = i
        ∧ (t.status = .settling ∨ t.status = .held))
    ∧ ∀ j : Nat, v.heldStepOf i = some j ↔ (∃ t : RouteStep, v.route[j]? = some t ∧ t.sec = i
        ∧ (t.status = .settling ∨ t.status = .held)) ∧ ∀ k : Nat, k < j →
            ¬ ∃ t : RouteStep, v.route[k]? = some t ∧ t.sec = i ∧ (t.status = .settling ∨ t.status = .held) := by
  unfold Convoy.heldStepOf
  have hm : ∀ k, k ∈ v.stepNumbers (fun t => t.isHeld && t.sec = i)
      ↔ ∃ t : RouteStep, v.route[k]? = some t ∧ t.sec = i ∧ (t.status = .settling ∨ t.status = .held) := by
    intro k; rw [Convoy.mem_stepNumbers]; simp only [Bool.and_eq_true, decide_eq_true_eq, RouteStep.isHeld_iff, and_comm]
  have hs : (v.stepNumbers (fun t => t.isHeld && t.sec = i)).Pairwise (· < ·) := stepNumbersFrom_sorted _ _ _
  simp only [← hm]
  generalize v.stepNumbers (fun t => t.isHeld && t.sec = i) = L at *
  cases L with
  | nil => simp
  | cons x xs =>
    rw [List.pairwise_cons] at hs
    constructor
    · constructor
      · intro h; simp at h
      · intro h; exact absurd (List.mem_cons_self) (h x)
    · intro j
      simp only [List.head?_cons, Option.some.injEq]
      constructor
      · rintro rfl
        refine ⟨by simp, ?_⟩
        intro k hk hmem
        rcases List.mem_cons.mp hmem with rfl | h
        · omega
        · have := hs.1 k h; omega
      · rintro ⟨h1, h2⟩
        rcases List.mem_cons.mp h1 with rfl | h
        · rfl
        · exact absurd (List.mem_cons_self) (h2 x (hs.1 j h))

theorem mapStepsFrom_id (f) : ∀ (ts : List RouteStep) (n), (∀ k t, f k t = t) → mapStepsFrom f n ts = ts := by
  intro ts; induction ts with
  | nil => intros; rfl
  | cons t ts ih => intro n h; unfold mapStepsFrom; rw [h, ih _ h]

theorem mapStepsFrom_eq_mapIdx (f : Nat → RouteStep → RouteStep) (l : List RouteStep) (n : Nat) : mapStepsFrom f n l
    = l.mapIdx fun k t => f (n + k) t := by
  induction l generalizing n with
  | nil => rfl
  | cons t ts ih => simp only [mapStepsFrom, List.mapIdx_cons, ih, Nat.add_zero]; congr 2; funext k u; congr 1; omega

/-- `mapSteps` changes each step by its number and recomputes the lead and the tail. -/
theorem Convoy.mapSteps_eq_mapIdx (v : Convoy) (f) : v.mapSteps f
    = ({ v with route := v.route.mapIdx f } : Convoy).reindex := by
  unfold Convoy.mapSteps; rw [mapStepsFrom_eq_mapIdx]; simp

/-- Where nothing is asked and nothing is pending, nothing is withdrawn. -/
theorem withdrawAsked_none (c r) (h : (r.convoy c).asked = none) (h2 : r.request c = none) : withdrawAsked c r = r := by
  unfold withdrawAsked; rw [h]; dsimp only; unfold withdraw; rw [h2]

/-- Without settling records the review reports nothing. -/
theorem reviewSettling_nil (r : Road) (h : r.settling = []) : reviewSettling r = r := by
  unfold reviewSettling; rw [h]; simp only [List.filter_nil, List.foldl_nil]; rw [← h]

/-- Leaving no section where nothing settles changes nothing. -/
theorem leaveHolder_nil (r : Road) (h : r.settling = []) : leaveHolder [] r = r := by
  have : leaveRecords [] r = r := by unfold leaveRecords; dsimp only [List.foldl_nil]; rw [h, List.map_nil, ← h]
  unfold leaveHolder; rw [this]; exact reviewSettling_nil r h

/-- Where nothing is held beyond the lead step and nothing settles, handing back gives nothing back. -/
theorem handBack_none (c : ConvoyId) (r : Road) (h : r.settling = []) (hh : (r.convoy c).holdsBeyondLead = false) :
    handBack c r = r.updConvoy c Convoy.reindex := by
  unfold handBack
  dsimp only
  have : ((r.convoy c).route.drop ((r.convoy c).lead + 1)).filter RouteStep.isHeld = [] := by
    rw [List.filter_eq_nil_iff]
    intro t ht
    obtain ⟨n, hn⟩ := List.mem_iff_getElem?.mp ht
    rw [List.getElem?_drop] at hn
    have := (Convoy.holdsBeyondLead_iff _).mp hh _ t (by omega) hn
    rw [RouteStep.isHeld_iff]; tauto
  rw [this]
  simp only [List.map_nil, List.filter_nil, List.foldl_nil, List.isEmpty_nil, if_true]
  have e : (fun (v : Convoy) => v.mapSteps fun n t => if (decide (v.lead < n) && t.isHeld && ([] : List SectionId).contains
      t.sec) = true then { t with status := .ahead } else t) = Convoy.reindex := by
    funext v
    unfold Convoy.mapSteps
    rw [mapStepsFrom_id]
    intro k t; simp
  rw [e]
  exact leaveHolder_nil _ h

/-- Freeing a list of sections frees each of them and changes nothing else. -/
theorem freeSections_eq (secs : List SectionId) (r : Road) : secs.foldl (fun r i => freeSection i r) r
    = { r with sections := Table.mapAll (fun i w => if i ∈ secs then { w with status := .free } else w) r.sections } := by
  have key : ∀ r : Road, (secs.foldl (fun r i => freeSection i r) r)
      = { r with sections := (secs.foldl (fun r i => freeSection i r) r).sections }
          ∧ ∀ j, (secs.foldl (fun r i => freeSection i r) r).sect j
              = (if j ∈ secs then { r.sect j with status := .free } else r.sect j) := by
    induction secs with
    | nil => intro r; exact ⟨rfl, fun j => by simp⟩
    | cons i is ih =>
      intro r
      obtain ⟨h1, h2⟩ := ih (freeSection i r)
      refine ⟨by rw [List.foldl_cons, h1]; rfl, ?_⟩
      intro j; rw [List.foldl_cons, h2]
      unfold freeSection; rw [Road.sect_setSect]
      by_cases h : j = i
      · subst h; by_cases h2 : j ∈ is <;> simp [h2]
      · by_cases h2 : j ∈ is <;> simp [h, h2]
  obtain ⟨h1, h2⟩ := key r
  rw [h1]
  congr 1
  apply Table.ext; intro j
  rw [Table.at_mapAll]
  exact h2 j

/-- A formed convoy that is not active stands or has arrived. -/
theorem ConvoyState.base_of_inactive {v : ConvoyState} (hf : v.formed = true) (h : v.active = false) : v.base?
    = some .standing ∨ v.base? = some .arrived := by
  rcases v with _ | b | b
  · cases hf
  all_goals cases b <;> simp_all [ConvoyState.active, ConvoyState.base?]

/-- An active convoy waits or runs. -/
theorem ConvoyState.base_of_active {v : ConvoyState} (h : v.active = true) : v.base? = some .waiting ∨ v.base?
    = some .running := by
  simpa [ConvoyState.active] using h

/-! ## A convoy that asks for nothing is given nothing -/

/-- The convoy still asks for nothing, holds the sections it held, and its record is as it was. -/
def Unasked (c : ConvoyId) (r r' : Road) : Prop :=
  r'.request c = none ∧ (∀ i, (r'.sect i).heldBy c = (r.sect i).heldBy c) ∧ r'.convoy c = r.convoy c

theorem Unasked.trans {c : ConvoyId} {q r s : Road} (a : Unasked c q r) (b : Unasked c r s) : Unasked c q s :=
  ⟨b.1, fun i => (b.2.1 i).trans (a.2.1 i), b.2.2.trans a.2.2⟩

theorem Unasked.of_eq {c : ConvoyId} {r r' : Road} (h : r.request c = none) (hr : r'.requests = r.requests)
    (hs : ∀ i, (r'.sect i).status = (r.sect i).status) (hc : r'.convoy c = r.convoy c) : Unasked c r r' := by
  refine ⟨?_, fun i => ?_, hc⟩
  · unfold Road.request; rw [hr]; exact h
  · unfold Section.heldBy; rw [hs i]

theorem Unasked.foldl {α : Type} {c : ConvoyId} {f : Road → α → Road} (xs : List α) (r : Road) (h : r.request c = none)
    (step : ∀ r, r.request c = none → ∀ x ∈ xs, Unasked c r (f r x)) : Unasked c r (xs.foldl f r) := by
  induction xs generalizing r with
  | nil => exact ⟨h, fun _ => rfl, rfl⟩
  | cons x xs ih =>
    have a := step r h x (by simp)
    exact a.trans (ih _ a.1 fun r h y hy => step r h y (by simp [hy]))

theorem unasked_placeEarmarks {c : ConvoyId} {r : Road} (h : r.request c = none) : Unasked c r (placeEarmarks r) :=
  Unasked.of_eq h rfl (fun i => by unfold placeEarmarks Road.sect; rw [Table.at_mapAll]) rfl

theorem unasked_setJunction {c : ConvoyId} {r : Road} (l : Leg) (h : r.request c = none) : Unasked c r (setJunction l r) := by
  unfold setJunction
  split
  · exact ⟨h, fun _ => rfl, rfl⟩
  · dsimp only
    split
    · exact ⟨h, fun _ => rfl, rfl⟩
    · split
      · exact Unasked.of_eq h rfl (fun _ => rfl) rfl
      · refine Unasked.of_eq h rfl (fun i => ?_) rfl
        rw [Road.sect_setSect]
        split
        · subst_vars; rfl
        · rfl

/-- The sections given to one convoy, all FREE before, are not held by another one before or after. -/
theorem heldBy_grantLegs {c k : ConvoyId} (hk : k ≠ c) (legs : List Leg) (r₀ : Road)
    (h : ∀ l ∈ legs, (r₀.sect l.sec).status = .free) :
    ∀ r : Road, (∀ i, (r.sect i).heldBy c = (r₀.sect i).heldBy c) →
      ∀ i, ((legs.foldl (fun r l => grantLeg k l r) r).sect i).heldBy c = (r₀.sect i).heldBy c := by
  induction legs with
  | nil => exact fun _ e => e
  | cons l ls ih =>
    intro r e
    refine ih (fun m hm => h m (by simp [hm])) _ fun i => ?_
    unfold grantLeg
    dsimp only
    rw [Road.sect_setSect]
    split
    · rename_i hi
      subst hi
      have := h l (by simp)
      simp [Section.heldBy, SectionStatus.holding, this, hk]
    · exact e i

theorem grantLegs_requests (k : ConvoyId) (legs : List Leg) (r : Road) :
    (legs.foldl (fun r l => grantLeg k l r) r).requests = r.requests := by
  induction legs generalizing r with
  | nil => rfl
  | cons l ls ih => exact (ih _).trans rfl

theorem grantLegs_convoys (k : ConvoyId) (legs : List Leg) (r : Road) :
    (legs.foldl (fun r l => grantLeg k l r) r).convoys = r.convoys := by
  induction legs generalizing r with
  | nil => rfl
  | cons l ls ih => exact (ih _).trans rfl

theorem unasked_grant {c k : ConvoyId} {q : GroupRequest} {r : Road} (hk : k ≠ c) (h : r.request c = none)
    (hf : ∀ l ∈ q.legs, (r.sect l.sec).status = .free) : Unasked c r (grant k q r) := by
  have a : Unasked c r (q.legs.foldl (fun r l => grantLeg k l r) r) :=
    ⟨by unfold Road.request; rw [grantLegs_requests]; exact h, heldBy_grantLegs hk q.legs r hf r fun _ => rfl,
      by unfold Road.convoy; rw [grantLegs_convoys]⟩
  have b : Unasked c r (q.legs.foldl (fun r l => setJunction l r)
      { (q.legs.foldl (fun r l => grantLeg k l r) r).setRequest k none with
        promotions := (q.legs.foldl (fun r l => grantLeg k l r) r).promotions.filter fun x => x ≠ k }) := by
    have b : Unasked c (q.legs.foldl (fun r l => grantLeg k l r) r)
        { (q.legs.foldl (fun r l => grantLeg k l r) r).setRequest k none with
          promotions := (q.legs.foldl (fun r l => grantLeg k l r) r).promotions.filter fun x => x ≠ k } :=
      ⟨(Road.request_setRequest_other _ _ _ (Ne.symm hk)).trans a.1, fun _ => rfl, rfl⟩
    exact (a.trans b).trans (Unasked.foldl _ _ b.1 fun r h l _ => unasked_setJunction l h)
  unfold grant
  dsimp only
  refine b.trans ?_
  have o : ∀ (x : Road) (v : Convoy), (x.setConvoy k v).convoy c = x.convoy c := fun x v =>
    Road.convoy_setConvoy_other x k v (Ne.symm hk)
  split
  · exact Unasked.of_eq b.1 rfl (fun _ => rfl) (o _ _)
  · exact Unasked.of_eq b.1 rfl (fun _ => rfl) ((o _ _).trans (o _ _))

theorem mem_waiting (r : Road) (c : ConvoyId) (q : GroupRequest) : (c, q) ∈ r.waiting ↔ r.request c = some q := by
  unfold Road.waiting Road.request
  simp only [List.mem_filterMap, Option.map_eq_some_iff, Prod.mk.injEq]
  constructor
  · rintro ⟨e, he, q', h1, h2, rfl⟩
    rw [Table.mem_entries] at he
    rw [← h2, ← he, h1]
  · intro h
    exact ⟨(c, Table.at r.requests c), by rw [Table.mem_entries], q, h, rfl, rfl⟩

theorem mem_insertByArrival (e x : ConvoyId × GroupRequest) (xs : List (ConvoyId × GroupRequest)) :
    x ∈ insertByArrival e xs ↔ x = e ∨ x ∈ xs := by
  induction xs with
  | nil => simp [insertByArrival]
  | cons y ys ih =>
    unfold insertByArrival
    split
    · simp
    · simp only [List.mem_cons, ih]
      tauto

/-- The requests that are due for promotion. -/
theorem mem_duePromotions (r : Road) (c : ConvoyId) (q : GroupRequest) :
    (c, q) ∈ r.duePromotions ↔ r.request c = some q ∧ q.promoted = false ∧ r.leastPatience q ≤ q.passed := by
  have key : ∀ (xs : List (ConvoyId × GroupRequest)) x, x ∈ xs.foldr insertByArrival [] ↔ x ∈ xs := by
    intro xs
    induction xs with
    | nil => simp
    | cons y ys ih => intro x; rw [List.foldr_cons, mem_insertByArrival, ih, List.mem_cons]
  unfold Road.duePromotions
  rw [key, List.mem_filter, mem_waiting]
  simp

theorem unasked_promote {c : ConvoyId} {r : Road} (h : r.request c = none) : Unasked c r (promote r) := by
  have a : Unasked c r (r.duePromotions.foldl (fun r e => promoteOne e r) r) := by
    refine Unasked.foldl _ _ h fun r' h' e he => ?_
    have hne : c ≠ e.1 := by
      rintro rfl
      have := ((mem_duePromotions r e.1 e.2).mp he).1
      rw [h] at this
      cases this
    exact ⟨(Road.request_setRequest_other _ _ _ hne).trans h', fun _ => rfl, rfl⟩
  exact a.trans (unasked_placeEarmarks a.1)

theorem unasked_passLoop {c : ConvoyId} (n : Nat) {r : Road} (h : r.request c = none) : Unasked c r (passLoop n r) := by
  induction n generalizing r with
  | zero => exact ⟨h, fun _ => rfl, rfl⟩
  | succ n ih =>
    unfold passLoop
    split
    · exact ⟨h, fun _ => rfl, rfl⟩
    · rename_i k q hc
      obtain ⟨hw, hg⟩ := choice_grantable hc
      have hk : k ≠ c := by
        rintro rfl
        rw [mem_waiting, h] at hw
        cases hw
      have a := unasked_grant hk h (grantable_legs hg)
      have b : Unasked c (grant k q r) (passOver q (grant k q r)) := by
        refine ⟨?_, fun _ => rfl, rfl⟩
        unfold passOver Road.request
        rw [Table.at_mapAll]
        have := a.1
        unfold Road.request at this
        rw [this]
        rfl
      have d := unasked_promote b.1
      exact ((a.trans b).trans d).trans (ih d.1)

/-- A pass gives a convoy that asks for nothing no section, takes none from it and leaves its record. -/
theorem unasked_arbitrate {c : ConvoyId} {r : Road} (h : r.request c = none) : Unasked c r (arbitrate r) := by
  have a := unasked_placeEarmarks h
  exact a.trans (unasked_passLoop 8 a.1)

/-- A convoy whose request is withdrawn asks for nothing, holds the sections it held and has its record. -/
theorem unasked_withdraw (c : ConvoyId) (r : Road) : Unasked c r (withdraw c r) := by
  unfold withdraw
  split
  · exact ⟨‹_›, fun _ => rfl, rfl⟩
  · rename_i q _
    dsimp only
    have a : Unasked c r { r.setRequest c none with
        promotions := r.promotions.filter fun x => x ≠ c, sections := Table.mapAll (fun _ v => v.without c) r.sections } := by
      refine ⟨Road.request_setRequest_self _ _ _, fun i => ?_, rfl⟩
      show Section.heldBy (Table.at (Table.mapAll _ _) i) c = _
      rw [Table.at_mapAll]
      rfl
    split
    · exact a.trans (unasked_arbitrate a.1)
    · exact a

/-- A convoy that has withdrawn what it asked for asks for nothing, and its state and the sections it holds are as before. -/
theorem withdrawAsked_spec (c : ConvoyId) (r : Road) :
    (withdrawAsked c r).request c = none ∧ (∀ i, ((withdrawAsked c r).sect i).heldBy c = (r.sect i).heldBy c)
      ∧ ((withdrawAsked c r).convoy c).asked = none ∧ ((withdrawAsked c r).convoy c).state = (r.convoy c).state := by
  unfold withdrawAsked
  dsimp only
  split
  · rename_i a b _
    have a := unasked_withdraw c (r.updConvoy c fun v => { v.restatus a b .requested .ahead with asked := none })
    refine ⟨a.1, fun i => (a.2.1 i).trans rfl, ?_, ?_⟩ <;>
      (rw [a.2.2]; unfold Road.updConvoy; rw [Road.convoy_setConvoy_self]; try rfl)
  · rename_i e
    have a := unasked_withdraw c r
    exact ⟨a.1, a.2.1, by rw [a.2.2]; exact e, by rw [a.2.2]⟩

/-- What a convoy that arrives is left with: no request, and the state or return state ARRIVED (R66). -/
theorem arrived_spec (c : ConvoyId) (r : Road) (h : r.allArrived c = true) :
    (arrivalTest c r).request c = none ∧ ((arrivalTest c r).convoy c).asked = none
      ∧ ((arrivalTest c r).convoy c).state = (r.convoy c).state.mapBase fun _ => .arrived := by
  obtain ⟨h1, _, h3, h4⟩ := withdrawAsked_spec c r
  have e : (arrivalTest c r).convoy c = setBase (fun _ => .arrived) ((withdrawAsked c r).convoy c) := by
    unfold arrivalTest; rw [if_pos h]; exact Road.convoy_setConvoy_self _ _ _
  refine ⟨?_, ?_, ?_⟩
  · unfold arrivalTest; rw [if_pos h]; exact h1
  · rw [e]; exact h3
  · rw [e, ← h4]; rfl

end Sys2Proof.Machine
end

