-- ==== Sys2Proof/Tests/Slice0.lean ====
section
/-! SUPPORT. The model's own tests: ill-formed commands, worked steps, and for each obligation with hypotheses a theorem that
shows states and operands that meet them, clause by clause. -/

namespace Sys2Proof.Tests

open Sys2Proof.Machine

set_option maxRecDepth 20000

/-! ## Small states -/

/-- The part right after a POWER_ON reset, its first notice sent. -/
def idle : State := { State.reset with link := { State.reset.link with tx := .idle } }

/-- `idle` with its road changed. -/
def onRoad (f : Road → Road) : State := idle.onPart (Part.onRoad f)

/-- `idle` with its link port changed. -/
def onLink (f : LinkPort → LinkPort) : State := idle.onLink f

/-- The part's mode controller in the given mode, with the given latch. -/
def inMode (m : Mode) (latch : Bool) (s : State) : State :=
  s.onPart fun p => { p with mode := { p.mode with mode := m, latch := latch } }

def twoWay (a b : MarkerId) : SectionDef :=
  { kind := .twoWay, endA := a, endB := some b, allowed := none, junction := none, patience := 3 }

def dock (a : MarkerId) : SectionDef :=
  { kind := .dock, endA := a, endB := none, allowed := none, junction := none, patience := 1 }

def oneWay (a b : MarkerId) : SectionDef :=
  { kind := .oneWay, endA := a, endB := some b, allowed := some .aToB, junction := none, patience := 7 }

/-- Two-way points on line 0, which take two seconds to settle. -/
def points (a b : MarkerId) : SectionDef := { twoWay a b with junction := some { line := 0, settle := 2000 } }

def junctionLine : Line := { Line.blank .low with direction := .output, function := .junction }

def secIn (d : SectionDef) (st : SectionStatus) : Section := { Section.blank with defn := some d, status := st }

def holds (c : ConvoyId) (entered exited : Nat) : Holding :=
  { convoy := c, dir := .aToB, entered := entered, exited := exited, log := [] }

def member (i : SlotId) : Member := { slot := i, trailers := 0, trim := 0, lastGap := none }

def stepTo (i : SectionId) (st : StepStatus) : RouteStep :=
  { sec := i, dir := .aToB, branch := .plain, link := false, travel := .forward, status := st }

/-- A convoy of one member on a route through sections 0 and 1, its lead in section 0. -/
def convoyIn (st : ConvoyState) : Convoy :=
  { Convoy.vacant with state := st, members := [member 0], route := [stepTo 0 .held, stepTo 1 .ahead] }

/-- Convoy 0 in section 0, section 1 ahead of it. -/
def onRoute (st : ConvoyState) (ahead : SectionStatus) : State :=
  onRoad fun r => ((r.setConvoy 0 (convoyIn st)).setSect 0 (secIn (twoWay 0 1) (.occupied (holds 0 1 0)))).setSect 1
    (secIn (twoWay 1 2) ahead)

/-- Convoy 0 as in `onRoute`, with its route, its lead and its state given. -/
def onSteps (st : ConvoyState) (lead : Nat) (steps : List StepStatus) (ahead : SectionStatus) : State :=
  (onRoute st ahead).onPart (Part.onRoad fun r => r.setConvoy 0 { r.convoy 0 with
    lead := lead, route := steps.mapIdx fun n t => stepTo (Fin.ofNat 64 n) t })

/-- A request for section 1 as step 1. -/
def asking (arrival passed : Nat) : GroupRequest :=
  { first := 1, legs := [{ sec := 1, dir := .aToB, branch := .turn }], arrival := arrival, passed := passed, promoted := false }

/-- What a command leaves of the part; the part as it was where it answers no next state. -/
def partAfter (c : Instr) (s : State) : Part :=
  match exec c s with
  | .next t => t.part
  | .fault _ => s.part
  | .refused _ => s.part

/-- The message on the line after a command. -/
def lineAfter (c : Instr) (s : State) : List Byte :=
  match exec c s with
  | .next t => match t.link.tx with | .sending f _ => f | .idle => []
  | .fault _ => []
  | .refused _ => []

theorem ready_of {s : State} (h : s.link = idle.link) (hr : s.resets = idle.resets) : Ready s := by
  refine ⟨by rw [hr]; rfl, by rw [h]; rfl, by rw [h]; rfl, by rw [h]; rfl, by rw [h]; rfl⟩

theorem ready_idle : Ready idle := ready_of rfl rfl

theorem quiet_of {s : State} (h : s.link = idle.link) (hr : s.resets = idle.resets) : Quiet s := by
  refine ⟨by rw [hr]; rfl, Or.inl (by rw [h]; rfl), fun _ => ⟨by rw [h]; rfl, by rw [h]; rfl⟩⟩

/-! ## Well-formed commands -/

theorem test_body_too_long_is_ill_formed : (Instr.fcv 0 (List.replicate 61 0)).wellFormed = false := by decide
theorem test_longest_body_is_well_formed : (Instr.fcv 0 (List.replicate 60 0)).wellFormed = true := by decide
theorem test_known_kind_is_no_unknown_kind : (Instr.unknownKind 0x10 0 []).wellFormed = false := by decide
theorem test_unknown_kind_is_well_formed : (Instr.unknownKind 0x27 0 []).wellFormed = true := by decide
theorem test_event_is_well_formed : (Instr.boardReport 0xFF 0xFF).wellFormed = true := by decide

/-- No row gives bits: a word changes nothing (Decode.lean). -/
theorem test_no_word_spells_a_command : State.reset.withFetchWord 16 0x1234 = State.reset := rfl

/-! ## Worked steps -/

/-- R2, R5, R205 to R207, R212: marker 0 after a reset, in a QMK reply with its check. -/
theorem test_qmk_replies_with_the_record : lineAfter (.qmk 7 [0, 1]) idle
    = [0xA6, 0x0B, 0x95, 0x07, 0x00, 0x00, 0x00, 0x00, 0x64, 0x01, 0x00, 0xFF, 0xFF, 0x28, 0xCC] := by decide

/-- R204, R211: leaving a POWER_ON reset puts RESTARTED's notice on the line. -/
theorem test_leaving_a_reset_announces_it : lineAfter (.leaveReset .low 0) (holdPowerOn idle) = restartedFrame := by decide

/-- R207: the check of restartedFrame. -/
theorem test_check_of_the_restarted_frame : crc ((restartedFrame.drop 1).take 12) = 0x7226 := by decide

/-- R3: an ARMED marker that becomes active is a pulse, and its section faults as a stray. -/
theorem test_pulse_in_a_free_section_is_a_stray :
    ((partAfter (.boardReport 0 1) ((onRoad fun r => r.setSect 5 (secIn (twoWay 0 1) .free)).onPart fun p =>
      let k := { p.markers with markers := Table.all { state := .armed, since := some 0, lastPulse := none } }
      { p with markers := k })).road.sect 5).status = .fault .stray none := by
  decide

/-- R17, R64: the convoy's first member enters section 1 and the lead moves there. -/
theorem test_entry_moves_the_lead :
    let r := roadPulse 1 0 (onRoute (.plain .running) (.granted (holds 0 0 0))).part.road
    (r.sect 1).status = .occupied { holds 0 1 0 with log := [{ member := 1, time := 0 }] } := by decide

/-- R53, R54: one member is formed in section 0. -/
theorem test_fcv_forms_a_convoy :
    let r := (partAfter (.fcv 0 [0, 1, 0, 0, 0, 0, 0xFF, 9, 2])
      (onRoad fun r => r.setSect 0 (secIn (twoWay 0 1) .free))).road
    (r.convoy 0).state = .plain .standing ∧ (r.convoy 0).members = [{ member 9 with trailers := 2 }]
      ∧ (r.sect 0).status = .occupied (holds 0 1 0) := by decide

/-- R59, R35: RUN into a FREE section is granted at once. -/
theorem test_run_is_granted :
    let r := (partAfter (.run 0 [0]) (onRoute (.plain .standing) .free)).road
    (r.convoy 0).state = .plain .running ∧ (r.sect 1).status = .granted (holds 0 0 0) := by decide

/-- R59: RUN towards a section that is OUT waits. -/
theorem test_run_waits :
    let r := (partAfter (.run 0 [0]) (onRoute (.plain .standing) (.out .host))).road
    (r.convoy 0).state = .plain .waiting ∧ (r.sect 1).queue = [0] := by decide

/-- R56 to R58: a route from section 0 into section 1. -/
theorem test_lrt_loads_a_route :
    let r := (partAfter (.lrt 0 [0, 2, 0, 0, 1, 0]) (onRoute (.plain .standing) .free)).road
    (r.convoy 0).route = [stepTo 0 .held, stepTo 1 .ahead] := by decide

/-- R60: STP of a running convoy hands section 1 back. -/
theorem test_stp_hands_back :
    let s := (onRoute (.plain .running) (.granted (holds 0 0 0))).onPart (Part.onRoad fun r =>
      r.setConvoy 0 { r.convoy 0 with route := [stepTo 0 .held, stepTo 1 .held] })
    let r := (partAfter (.stp 0 [0]) s).road
    (r.convoy 0).state = .plain .standing ∧ (r.sect 1).status = .free := by decide

/-- R61 and R210: a presence mask with lag and gap window. -/
theorem test_tcv_stores_the_present_fields :
    let v := (partAfter (.tcv 0 [0, 0x0E, 5, 0, 100, 1, 0]) (onRoute (.plain .standing) .free)).road.convoy 0
    (v.lag, v.gapMin, v.gapMax, v.priority) = (5, 100, 256, 4) := by decide

/-- R104: RSM while an enabled level source is active. -/
theorem test_rsm_names_the_active_sources :
    let s := (onRoute (.halted .standing) .free).onPart fun p =>
      { p with road := p.road.setConvoy 0 { p.road.convoy 0 with source := .driver 0 } }
    (lineAfter (.rsm 0 [0]) s).take 7 = [0xA6, 0x05, 0xB2, 0x00, 0x09, 0x01, 0x00] := by decide

/-- R39, R43: the hand-back of a forced loss cancels the last timer of a group of which a section in FAULT is left, which
settles it; while a timer runs there the record is only reduced, and an emptied one goes unreported. -/
theorem test_forced_loss_settles_what_is_left :
    let s := onSteps (.plain .waiting) 0 [.held, .settling, .settling, .settling] (.fault .countOver (some (holds 0 0 0)))
    let r := { (s.part.road.setSect 2 (secIn (twoWay 2 3) (.out .host))).setSect 3
        { secIn (points 3 4) (.granted (holds 0 0 0)) with settle := some 9 } with
      settling := [{ convoy := 0, first := 1, last := 3, sections := [1, 3] }] }
    let after := fun (x : Road) => let q := forcedLoss 0 2 x
      ((q.convoy 0).route.map RouteStep.status, q.settling.map SettlingRecord.sections, (q.convoy 0).state)
    after r = ([.held, .held, .ahead, .ahead], [], .plain .running)
      ∧ after (r.setSect 1 { r.sect 1 with settle := some 4 }) = ([.held, .settling, .ahead, .ahead], [[1]], .plain .waiting)
      ∧ (leaveHolder [1, 3] r).settling = []
      ∧ ((leaveHolder [1, 3] r).convoy 0).route = (r.convoy 0).route := by decide

/-- R66: a restoration of the last section withdraws what the convoy still asks for. -/
theorem test_arrival_withdraws_the_request :
    let s := onSteps (.plain .waiting) 0 [.held, .requested, .held] .free
    let q := (s.part.road.setSect 2 (secIn (twoWay 2 3) (.fault .countOver (some (holds 0 0 0))))).setConvoy 0
      { s.part.road.convoy 0 with asked := some (1, 1) }
    let asks := (q.setRequest 0 (some (asking 0 0))).setSect 1 { q.sect 1 with queue := [0] }
    let t := partAfter (.srst 0 [2, 1, 0]) (s.onPart (Part.onRoad fun _ => asks))
    ((t.road.convoy 0).state, (t.road.convoy 0).asked, t.road.request 0, (t.road.sect 1).queue)
        = (.plain .arrived, none, none, [])
      ∧ (t.road.convoy 0).route.map RouteStep.status = [.held, .ahead, .held] := by decide

/-- R80: an update taken before the expiry keeps the driver PRESENT. -/
theorem test_update_before_the_expiry :
    let h : Handset := { throttle := 9, horn := false, halt := false, aux := false, presence := .present 0 }
    let s := idle.onPart fun p =>
      { p with drivers := { p.drivers with handsets := Table.put p.drivers.handsets 2 h } }
    let t := runAll [.handsetUpdate 2 9 0, .lostTimerExpiry 2] s
    (Table.at t.part.drivers.handsets 2).presence = .present 300
      ∧ (Table.at (partAfter (.lostTimerExpiry 2) s).drivers.handsets 2).presence = .lost := by decide

/-- R88, R106: under TIMETABLE a halt between two frame starts leaves re-arm set until the next one. -/
theorem test_rearm_clears_at_the_next_frame :
    let s := (onRoute (.halted .running) .free).onPart (Part.onRoad fun r =>
      r.setConvoy 0 { r.convoy 0 with source := .timetable, ttDemand := 3000 })
    let p := partAfter (.rsm 0 [0]) s
    (p.road.convoy 0).halt.rearm = true
      ∧ (((p.road.convoy 0).frame p.mode p.drivers 22).1).halt.rearm = false := by decide

/-- R210: a mask bit that names no field counts no bytes. -/
theorem test_mask_bits_above_the_last_field :
    (Table.at (partAfter (.scl 0 [3, 0xC0, 1, 1]) idle).cells 3).enabled = true := by decide

/-- R116, R117, R122: an enabled cell whose first gates read ALWAYS. -/
theorem test_scan_sets_an_output :
    let g : Gate := { terms := #v[.asRead, .ignored, .ignored, .ignored], invert := false }
    let s := idle.onPart fun p =>
      { p with cells := Table.put p.cells 3 { Cell.blank with enabled := true, gates := #v[g, g, Gate.empty, Gate.empty] } }
    (Table.at (partAfter .cellScan s).cells 3).output = true := by decide

/-- R142, R213: a keyed slot with an address is listed with its four values. -/
theorem test_frame_lists_a_keyed_slot :
    let t := { Slot.blank with keyed := true, settings := { Slot.blank.settings with address := some 60 } }
    let s := idle.onPart fun p => { p with composer := { p.composer with slots := Table.put p.composer.slots 2 t } }
    (partAfter .frameStart s).composer.airFrame = some [1, 60, 0x05, 0xDC, 0x05, 0xDC, 0x05, 0xDC, 0x05, 0xDC] := by
  decide

/-- R158 to R160, R166: midnight of day 7, with an entry that matches the new minute. -/
theorem test_midnight_of_day_seven :
    let s := idle.onPart fun p => { p with
      clock := { day := 7, hour := 23, minute := 59, second := 59, fraction := 999, ratio := 1, running := true },
      departures := Table.put p.departures 4 { Departure.blank with enabled := true } }
    let p := partAfter .scaleSecond s
    (p.clock.day, p.clock.hour, p.clock.minute, p.clock.second) = (1, 0, 0, 0) ∧ p.pulses.hour = true
      ∧ (Table.at p.departures 4).fired = true := by decide

/-- R176, R180: HOLD to PARK freezes a driven line. -/
theorem test_park_freezes_a_driven_line :
    let s := onRoad fun r => r.setLine 4 { Line.blank .low with direction := .output, drive := .enabled, data := true }
    let p := partAfter (.mod 0 [3]) s
    p.mode.mode = .park ∧ (p.road.line 4).frozen = some { pin := .high, level := true } := by decide

/-- R164: an SCK taken before a due second makes it pass no more. -/
theorem test_sck_before_the_second :
    let s := idle.onPart fun p => { p with
      clock := { day := 1, hour := 5, minute := 9, second := 59, fraction := 995, ratio := 12, running := true } }
    let k := (runAll [.sck 0 [2, 6, 30, 59, 0xFF], .scaleSecond] s).part.clock
    (k.day, k.hour, k.minute, k.second, k.fraction) = (2, 6, 30, 59, 0)
      ∧ (partAfter .scaleSecond s).clock.second = 0 ∧ (partAfter .scaleSecond s).clock.fraction = 7 := by decide

/-- R185: a held part drives no line. -/
theorem test_a_held_part_drives_no_line :
    let s := onRoad fun r => r.setLine 4 { Line.blank .low with direction := .output, drive := .enabled, data := true }
    let out := fun (p : Part) => (p.road.line 4).pinOut p.parkHold p.cells
    out s.part = some .high ∧ out (partAfter .resetLine s) = none := by decide

/-- R188 to R192: the bytes of QCK, with a kind nobody owns in its place. -/
theorem test_bytes_of_an_unknown_request :
    (runAll (arriving [0xA6, 0x02, 0x27, 0x05, 0x7F, 0x5A]) idle).link.checkErrors = 1 := by decide

/-- R188: a byte taken before the gap expiry that came with it belongs to the frame; behind the expiry it does not. -/
theorem test_byte_before_the_gap_expiry :
    let s := onLink fun l => { l with receiver := .length, gap := some 0 }
    let t := runAll [.byteReceived (.good 2), .gapTimerExpiry] s
    let u := runAll [.gapTimerExpiry, .byteReceived (.good 2)] s
    (t.link.receiver, t.link.gap, t.link.framingErrors) = (.body 2 [], some 5, 0)
      ∧ (u.link.receiver, u.link.gap, u.link.framingErrors) = (.hunt, none, 1) := by decide

/-! ## States that meet what the statements assume

One theorem or two for each statement with hypotheses, near the order of Obligations.lean; the parts meet the hypotheses of its
clauses, at the ends of their ranges. -/

/-- The transmitter on a message, with what waits behind it. -/
def sendingWith (taken : Bool) (slot : Option (List Byte)) (waiting : Nat) : State :=
  onLink fun l => { l with tx := .sending [0xA6] 100, slot := slot, rstTaken := taken,
                           inbound := List.replicate waiting ⟨0x53, 0, []⟩ }

def hears (r : Receiver) (gap : Option Nat) : State := onLink fun l => { l with receiver := r, gap := gap }

def handset (d : DriverId) (h : Handset) (s : State) : State :=
  s.onPart fun p => { p with drivers := { p.drivers with handsets := Table.put p.drivers.handsets d h } }

def heard (left : Nat) : Handset := { throttle := 1, horn := false, halt := false, aux := false, presence := .present left }

def raised (i : SourceId) (s : State) : State :=
  s.onPart (Part.onRoad fun r => { r with notices :=
    { r.notices with sources := Table.upd r.notices.sources i fun k => { k with pending := true, enabled := true } } })

def lastSecond : State := idle.onPart fun p => { p with
  clock := { day := 7, hour := 23, minute := 59, second := 59, fraction := 999, ratio := 12, running := true } }

theorem test_states_for_EmptyQueue :
    (holdPowerOn idle).pending = [] ∧ (holdPowerOn idle).resets.held = true
      ∧ (handset 7 (heard 1) idle).pending = [] ∧ (handset 7 (heard 1) idle).resets.held = false
      ∧ (Table.at (handset 7 (heard 1) idle).part.drivers.handsets 7).presence = .present 1 := by decide

theorem test_states_for_LinkLaw :
    LinkLaw (sendingWith false (some []) 4) ∧ ∃ t, step (sendingWith false (some []) 4) = .next t := by
  refine ⟨?_, _, rfl⟩
  unfold LinkLaw; decide

theorem test_states_for_ClockLaw :
    ClockLaw lastSecond ∧ ∃ t, step { lastSecond with pending := [.scaleSecond] } = .next t := by
  refine ⟨?_, _, rfl⟩
  unfold ClockLaw; decide

def rundownInPark : State := inMode .park true (idle.onPart fun p => { p with
  composer := { p.composer with slots := Table.put p.composer.slots 23 { Slot.blank with onAir := .rundown 3 } } })

theorem test_states_for_ParkLaw :
    ParkLaw rundownInPark ∧ rundownInPark.part.parkHold = true
      ∧ ∃ t, step { rundownInPark with pending := [.frameStart] } = .next t := by
  refine ⟨?_, by decide, _, rfl⟩
  unfold ParkLaw; decide

theorem test_states_for_NoticeLaw : NoticeLaw (raised 20 idle) ∧ ∃ t, step (raised 20 idle) = .next t := by
  refine ⟨?_, _, rfl⟩
  unfold NoticeLaw; decide

theorem test_states_for_CountLaw :
    CountLaw (onRoute (.plain .running) (.granted (holds 0 0 0)))
      ∧ ∃ t, step (onRoute (.plain .running) (.granted (holds 0 0 0))) = .next t := by
  refine ⟨⟨?_, by decide⟩, _, rfl⟩
  have h : ∀ i, ((onRoute (.plain .running) (.granted (holds 0 0 0))).part.road.sect i).status.holding.all (fun h =>
      decide (h.exited ≤ h.entered ∧ h.entered
        ≤ ((onRoute (.plain .running) (.granted (holds 0 0 0))).part.road.convoy h.convoy).memberCount)) = true := by decide
  intro i g hg
  have := h i
  rw [hg] at this
  simpa using this

theorem test_states_for_FrameBytes :
    ([] : List Byte).length ≤ 60 ∧ (List.replicate 60 (0xA6 : Byte)).length ≤ 60 ∧ Quiet idle ∧ transmit idle = idle
      ∧ idle.link.rstTaken = false ∧ idle.link.receiver = .hunt :=
  ⟨by decide, by decide, quiet_of rfl rfl, by decide, rfl, rfl⟩

theorem test_states_for_ReceiverFollows :
    (∀ r g, Quiet (hears r g) ∧ (hears r g).link.rstTaken = false ∧ transmit (hears r g) = hears r g)
      ∧ (hears .length (some 0)).link.gap = some 0 ∧ (hears .length (some 1)).link.gap ≠ some 0
      ∧ (0xA5 : Byte) ≠ 0xA6 ∧ (0xA7 : Byte) ≠ 0xA6 ∧ (2 : Byte).toNat = 2 ∧ (62 : Byte).toNat = 62
      ∧ ([] : List Byte).length + 1 ≠ (2 : Byte).toNat + 2 ∧ [1, 2, 3].length + 1 = (2 : Byte).toNat + 2
      ∧ (([0x53, 0, 0] : List Byte) ++ [0]).drop 2 ≠ halfBytes (crc [2, 0x53, 0]).toNat
      ∧ ((1 : Byte).toNat < 2 ∧ 62 < (63 : Byte).toNat ∧ 62 < (0xA6 : Byte).toNat) 
      ∧ (hears .length (some 0)).link.receiver ≠ .hunt ∧ (hears (.body 62 []) none).link.receiver ≠ .hunt := by
  refine ⟨fun r g => ⟨⟨rfl, Or.inl rfl, fun _ => ⟨rfl, rfl⟩⟩, rfl, ?_⟩, by decide⟩
  rfl

theorem test_states_for_RequestsWait :
    asRequest? (.qck 1 []) = some ⟨0x53, 1, []⟩ ∧ asRequest? (.unknownKind 0xFF 0 []) = some ⟨0xFF, 0, []⟩
      ∧ (sendingWith true none 0).resets.held = false ∧ (sendingWith true none 0).link.tx = .sending [0xA6] 100
      ∧ (sendingWith true none 0).link.rstTaken = true
      ∧ ((sendingWith false none 0).link.rstTaken = false ∧ (sendingWith false none 0).link.slot = none
          ∧ (sendingWith false none 0).link.inbound = [] ∧ (sendingWith false none 0).link.tx = .sending [0xA6] 100)
      ∧ (sendingWith false (some []) 3).link.inbound.length = 3 ∧ (sendingWith false (some []) 4).link.inbound.length = 4
      ∧ (sendingWith false (some []) 3).link.rstTaken = false ∧ (sendingWith false (some []) 3).link.slot.isSome = true := by
  decide

theorem test_states_for_AMessageEnds :
    (sendingWith false (some [1]) 0).link.slot = some [1] ∧ (sendingWith false (some [1]) 0).link.inbound = []
      ∧ (sendingWith false (some [1]) 1).link.inbound = [⟨0x53, 0, []⟩] ∧ handle ⟨0x53, 0, []⟩ = onPart (answerQck [])
      ∧ asRequest? (.rst 0 []) = some ⟨0x61, 0, []⟩
      ∧ (onLink fun l => { l with slot := some [1], inbound := [⟨0x61, 0, []⟩] }).link.inbound = [⟨0x61, 0, []⟩]
      ∧ (sendingWith false none 0).link.slot = none ∧ (sendingWith false none 0).link.inbound = []
      ∧ (sendingWith false none 0).part.road.notices.next? = none
      ∧ (raised 20 (sendingWith false none 0)).part.road.notices.next? = some 20
      ∧ (raised 20 (sendingWith false none 0)).link.tx = .sending [0xA6] 100
      ∧ (raised 20 (sendingWith false none 0)).resets.held = false := by
  refine ⟨rfl, rfl, rfl, rfl, rfl, rfl, rfl, rfl, by decide, by decide, rfl, rfl⟩

theorem test_states_for_Malformed :
    Ready idle ∧ requestKinds.contains 0x27 = false
      ∧ (∀ n ∈ [0, 1, 2, 3, 5, 6, 9], ∃ body : List Byte, body.length ≠ n ∧ (body.length = n + 1))
      ∧ (21 < (List.replicate 22 (0 : Byte)).length ∧ 42 < (List.replicate 44 (0 : Byte)).length)
      ∧ ([1] : List Byte).length % 2 = 1 ∧ (List.replicate 6 (0 : Byte)).length < 7 ∧ ([0] : List Byte).length < 2
      ∧ ([0, 1] : List Byte).length < 3
      ∧ 64 ≤ (64 : Byte).toNat ∧ 8 ≤ (8 : Byte).toNat ∧ 24 ≤ (24 : Byte).toNat ∧ 16 ≤ (16 : Byte).toNat
      ∧ (95 < (96 : Byte).toNat ∧ (0 : Byte).toNat < 1 ∧ 16 < (17 : Byte).toNat ∧ 96 < (95 : Byte).toNat + (2 : Byte).toNat)
      ∧ 4 < (5 : Byte).toNat ∧ 1 < (2 : Byte).toNat ∧ 3 < (4 : Byte).toNat ∧ 2 ≤ (2 : Byte).toNat :=
  ⟨ready_idle, by decide, fun n _ => ⟨List.replicate (n + 1) 0, by simp, by simp⟩, by decide⟩

theorem test_states_for_MalformedLists :
    Ready idle
      ∧ ([0] : List Byte).length ≠ maskLength tcvSizes 0 ∧ ([] : List Byte).length ≠ maskLength sslSizes 1
      ∧ ([0] : List Byte).length ≠ maskLength slnSizes 4 ∧ ([1] : List Byte).length ≠ maskLength smoSizes 3
      ∧ ([0] : List Byte).length ≠ maskLength sclSizes (0x40 * 256) ∧ ([0] : List Byte).length ≠ maskLength sdpSizes 0x100
      ∧ ([8, 1] : List Byte).length ≠ 7 + 2 * (1 : Byte).toNat ∧ ([8, 1] : List Byte).length ≠ 2 + 2 * (1 : Byte).toNat
      ∧ (1 : Byte).toNat % 8 ≠ 0
      ∧ ([0, 0] : List Byte).length = maskLength tcvSizes 3 ∧ ([0, 0, 0] : List Byte).length = maskLength sslSizes 3
      ∧ ([2, 7, 7] : List Byte).length = maskLength slnSizes 0x44 ∧ ([0] : List Byte).length = maskLength sclSizes 0x2000
      ∧ ([] : List Byte).length = maskLength sdpSizes 0x100
      ∧ (8 ≤ (8 : Byte).toNat ∧ 24 ≤ (24 : Byte).toNat ∧ 16 ≤ (16 : Byte).toNat ∧ 64 ≤ (64 : Byte).toNat)
      ∧ ([] : List (Byte × Byte)).length = (0 : Byte).toNat
      ∧ ((List.replicate 7 ((0, 0) : Byte × Byte)).length = (7 : Byte).toNat ∧ 6 < (7 : Byte).toNat)
      ∧ ((List.replicate 17 ((0, 0) : Byte × Byte)).length = (17 : Byte).toNat ∧ 16 < (17 : Byte).toNat)
      ∧ ((2 : Byte) = 2 ∧ 2 < (3 : Byte).toNat ∧ 32 ≤ (32 : Byte).toNat ∧ (6 : Byte).toNat / 2 % 4 = 3)
      ∧ (∃ m ∈ [((23, 3) : Byte × Byte)], 24 ≤ m.1.toNat ∨ 2 < m.2.toNat)
      ∧ (∃ b ∈ ([20, 21] : List Byte), 21 ≤ b.toNat) ∧ ([20, 21] : List Byte).length ≤ 21
      ∧ (∃ e ∈ [((20, 8) : Byte × Byte)], 21 ≤ e.1.toNat ∨ 7 < e.2.toNat) := ⟨ready_idle, by decide⟩

theorem test_states_for_Rst :
    Ready idle ∧ (sendingWith true none 0).resets.held = false ∧ (sendingWith true none 0).link.rstTaken = true
      ∧ (sendingWith true none 0).link.slot = none ∧ (sendingWith true none 0).link.tx = .sending [0xA6] 100
      ∧ (sendingWith true none 0).resets.supplyRisen = false ∧ (sendingWith true none 0).resets.lineAsserted = false :=
  ⟨ready_idle, by decide⟩

theorem test_states_for_Resets :
    idle.resets.supplyRisen = false
      ∧ ((holdPowerOn idle).resets.held = true ∧ (holdPowerOn idle).resets.supplyUp = true
          ∧ (holdPowerOn idle).resets.supplyRisen = true)
      ∧ ((holdResetLine idle).resets.held = true ∧ (holdResetLine idle).resets.supplyUp = true
          ∧ (holdResetLine idle).resets.supplyRisen = false) := by decide

theorem test_states_for_AHeldPart :
    (holdResetLine idle).resets.held = true ∧ (asRequest? (.sdef 0 [])).isSome = true
      ∧ idle.resets.held = false ∧ ({ idle.resets with held := true, supplyUp := false } : ResetControl).supplyUp = false := by
  decide

theorem test_states_for_NoticeLists :
    Ready idle ∧ (List.finRange 21 : List SourceId).length ≤ 21 ∧ ([] : List SourceId).length ≤ 21
      ∧ (List.replicate 21 ((20 : SourceId), 7)).length ≤ 21
      ∧ ∀ e ∈ List.replicate 21 ((20 : SourceId), 7), e.2 ≤ 7 :=
  ⟨ready_idle, by decide⟩

theorem test_states_for_Queries :
    Ready idle ∧ (95 ≤ 95 ∧ 95 + 1 ≤ 96) ∧ (80 ≤ 95 ∧ 16 ≤ 16 ∧ 80 + 16 ≤ 96) ∧ 4 ≤ 4 ∧ 1 ≤ 1
      ∧ (Ready (handset 0 (heard 300) idle) ∧ (Table.at (handset 0 (heard 300) idle).part.drivers.handsets 0).presence = .present 300)
      ∧ (Table.at idle.part.drivers.handsets 0).presence = .lost ∧ idle.part.clock.running = false
      ∧ (Ready lastSecond ∧ lastSecond.part.clock.running = true ∧ 1 ≤ lastSecond.part.clock.ratio) :=
  ⟨ready_idle, by decide, by decide, by decide, by decide, ⟨ready_of rfl rfl, by decide⟩, by decide, by decide,
    ready_of rfl rfl, by decide, by decide⟩

/-- Section 0 with the given record, on a road whose line 0 is a junction line. -/
def withSection (v : Section) : State := onRoad fun r => (r.setLine 0 junctionLine).setSect 0 v

theorem sound_of_points : (points 0 95).sound :=
  ⟨by decide, by decide, by decide, by decide, by decide, by rintro j ⟨⟩; decide⟩

theorem test_states_for_Sdef :
    (points 0 95).sound ∧ (dock 95).sound ∧ (oneWay 1 2).sound ∧ (0xFF : Byte) = 0xFF ∧ (points 0 95).patience = 3
      ∧ Ready (withSection Section.blank) ∧ (withSection Section.blank).part.road.sect 0 = Section.blank
      ∧ (∀ j, (points 0 95).junction = some j → ((withSection Section.blank).part.road.line j.line).direction = .output
          ∧ ((withSection Section.blank).part.road.line j.line).function = .junction
          ∧ (idle.part.road.line j.line).direction ≠ .output)
      ∧ (∀ c, ((withSection Section.blank).part.road.convoy c).state.formed = false)
      ∧ (∀ k, ((withSection Section.blank).part.road.sect k).defn = none)
      ∧ ((withSection { Section.blank with queue := [7] }).part.road.sect 0).queue ≠ []
      ∧ ((withSection (secIn (dock 1) (.out .reset))).part.road.sect 0).status = .out .reset
      ∧ ((withSection (secIn (dock 1) .free)).part.road.sect 0).status = .free
      ∧ ((withSection (secIn (dock 1) (.granted (holds 0 0 0)))).part.road.sect 0).status = .granted (holds 0 0 0)
      ∧ ((withSection (secIn (dock 1) (.fault .stray none))).part.road.sect 0).status = .fault .stray none := by
  refine ⟨sound_of_points, ⟨by decide, by decide, by decide, by decide, by decide, by rintro j ⟨⟩⟩,
    ⟨by decide, by decide, by decide, by decide, by decide, by rintro j ⟨⟩⟩, rfl, rfl, ready_of rfl rfl, rfl,
    by rintro j ⟨⟩; decide, by decide, by decide, by decide, by decide, by decide, by decide, by decide⟩

/-- Nothing acts on the halts of a road with no faulted section, no halted convoy and convoys under the host. -/
theorem clear_of {p : Part} (hc : ∀ k, (Table.at p.cells k).output = false)
    (hf : ∀ i, (p.road.sect i).status.isFault = false)
    (hd : ∀ c, driverLostActive p.drivers (p.road.convoy c) = false)
    (hh : ∀ c, (p.road.convoy c).state.isHalted = false) : AllClear p := ⟨hc, hf, hd, hh⟩

theorem test_states_for_SdefFields :
    Ready idle ∧ (idle.part.road.sect 63).status = .undefined
      ∧ ¬ 1 ≤ (0 : Byte).toNat ∧ ¬ (4 : Byte).toNat ≤ 3 ∧ ¬ (96 : Byte).toNat < 96 ∧ (2 : Byte) ≠ 0xFF
      ∧ ¬ (2 : Byte).toNat ≤ 1 ∧ ¬ ((0 : Byte) = 0xFF ∨ 1 ≤ (0 : Byte).toNat) ∧ ¬ (8 : Byte).toNat ≤ 7
      ∧ ¬ 8 * 256 + 52 ≤ 2000 ∧ ((16 : Byte) ≠ 0xFF ∧ ¬ (16 : Byte).toNat < 16 ∧ ¬ (254 : Byte).toNat < 16) ∧ (7 * 256 + 208 ≤ 2000 ∧ (7 * 256 + 208) % 100 = 0) := ⟨ready_idle, by decide⟩

theorem test_states_for_Sout :
    Ready (withSection (secIn (dock 1) .free)) ∧ ((withSection (secIn (dock 1) .free)).part.road.sect 0).status.holding = none
      ∧ ((withSection (secIn (dock 1) .free)).part.road.sect 0).earmark = none
      ∧ AllClear { (withSection (secIn (dock 1) .free)).part with
          road := (withSection (secIn (dock 1) .free)).part.road.setSect 0 (secIn (dock 1) (.out .host)) }
      ∧ ((withSection (secIn (dock 1) (.occupied (holds 7 1 0)))).part.road.sect 0).status.holding.isSome = true
      ∧ ((withSection Section.blank).part.road.sect 0).status = .undefined :=
  ⟨ready_of rfl rfl, by decide, by decide, clear_of (by decide) (by decide) (by decide) (by decide), by decide, by decide⟩

/-- Where the step after convoy 0's lead stands once the hand-back of a forced loss is done. -/
def nextAfterLoss (r : Road) : Option StepStatus :=
  let back := handBack 0 ((withdrawAsked 0 r).setConvoy 0 (r.convoy 0))
  (back.convoy 0).route[(back.convoy 0).lead + 1]?.map RouteStep.status

theorem test_states_for_ForcedLoss :
    let granted := SectionStatus.granted (holds 0 0 0)
    let faulted := SectionStatus.fault .countOver (some (holds 0 0 0))
    let a := onSteps (.plain .running) 0 [.held, .held] granted
    ((a.part.road.convoy 0).route[0]? = some (stepTo 0 .held) ∧ (a.part.road.convoy 0).lead = 0
        ∧ (a.part.road.convoy 0).route[1]? = some (stepTo 1 .held))
      ∧ (∀ t ∈ (a.part.road.convoy 0).route, t.sec ≠ 5)
      ∧ (forcedLoss 0 1 a.part.road).convoy 0 ≠ a.part.road.convoy 0
      ∧ (a.part.road.convoy 0).state.base? = some .running
      ∧ ((onSteps (.halted .standing) 0 [.held, .held] granted).part.road.convoy 0).state.base? = some .standing
      ∧ nextAfterLoss a.part.road = some .ahead
      ∧ nextAfterLoss (onSteps (.plain .running) 0 [.held, .held, .held] faulted).part.road = some .held
      ∧ nextAfterLoss (onSteps (.plain .running) 0 [.held, .settling, .held] faulted).part.road = some .settling := by
  decide

theorem test_states_for_Srst :
    Ready (withSection (secIn (dock 1) (.out .host)))
      ∧ ((withSection (secIn (dock 1) (.out .host))).part.road.sect 0).status = .out .host
      ∧ (NoRequests (withSection (secIn (dock 1) (.out .host))).part.road
          ∧ AllClear { (withSection (secIn (dock 1) (.out .host))).part with
              road := (withSection (secIn (dock 1) (.out .host))).part.road.setSect 0 (secIn (dock 1) .free) })
      ∧ (let s := onRoad fun r => (r.setConvoy 0 (convoyIn (.plain .standing))).setSect 0
            (secIn (twoWay 0 1) (.fault .countOver (some (holds 0 1 0))))
         (s.part.road.sect 0).status = .fault .countOver (some (holds 0 1 0)) ∧ (s.part.road.convoy 0).memberCount = 1
          ∧ ((0 : Byte).toNat < (1 : Byte).toNat ∧ 1 < (2 : Byte).toNat)
          ∧ ((1 : Byte).toNat ≤ (1 : Byte).toNat ∧ (1 : Byte).toNat ≤ 1)
          ∧ ((0 : Byte).toNat ≠ 1 ∧ (0 : Byte).toNat = 0)
          ∧ ((0 : Byte).toNat ≤ (1 : Byte).toNat ∧ (1 : Byte).toNat ≠ 0))
      ∧ ((withSection Section.blank).part.road.sect 0).status = .undefined :=
  ⟨ready_of rfl rfl, by decide, ⟨⟨by decide, rfl⟩, clear_of (by decide) (by decide) (by decide) (by decide)⟩, by decide,
    by decide⟩

theorem test_states_for_Restorations :
    let s := onSteps (.plain .running) 0 [.held, .held] (.fault .countOver (some (holds 0 1 0)))
    Ready s ∧ (s.part.road.sect 1).status = .fault .countOver (some (holds 0 1 0))
      ∧ ((1 : Byte).toNat ≤ (1 : Byte).toNat ∧ (s.part.road.convoy 0).memberCount = 1)
      ∧ (s.part.road.convoy 0).route[1]? = some (stepTo 1 .held) ∧ (s.part.road.convoy 0).route[0]? = some (stepTo 0 .held)
      ∧ (s.part.road.convoy 0).lead = 0 ∧ NoRequests s.part.road ∧ s.part.road.settling = [] ∧ (s.part.road.sect 1).settle = none
      ∧ AllClear { s.part with road := s.part.road.setSect 1 { s.part.road.sect 1 with status := .free } }
      ∧ (∀ t ∈ (s.part.road.convoy 0).route, t.sec ≠ 5) := by
  refine ⟨ready_of rfl rfl, by decide, by decide, by decide, by decide, by decide, ⟨by decide, rfl⟩, by decide, by decide,
    clear_of (by decide) (by decide) (by decide) (by decide), by decide⟩

/-- Marker 95 with the given record at marker time 65535. -/
def withMarker (m : Marker) : State := idle.onPart fun p => { p with
  markers := { p.markers with time := 0xFFFF, markers := Table.put p.markers.markers 95 m } }

theorem test_states_for_Markers :
    Ready idle ∧ (20 % 10 = 0 ∧ 20 ≤ 500) ∧ (500 % 10 = 0 ∧ 500 < 65536) ∧ 19 < 20 ∧ 500 < 510 ∧ 25 % 10 ≠ 0
      ∧ idle.resets.held = false := ⟨ready_idle, by decide⟩

/-- The markers of a board, in ascending number. -/
def boardMarkers (board : Byte) (k : Fin 8) : MarkerId := Fin.ofNat 96 (8 * board.toNat + k.val)

theorem test_states_for_WholeReports :
    (∀ k, (boardMarkers 0 k).val = 8 * (0 : Byte).toNat + k.val) ∧ (∀ k, (boardMarkers 11 k).val = 8 * (11 : Byte).toNat + k.val)
      ∧ (let old := fun (st : HoldOff) => Table.at (withMarker { state := st, since := none, lastPulse := none }).part.markers.markers 95
         (old .active).level? = some true ∧ (old .active).level? ≠ some false ∧ (old .armed).level? = some false
          ∧ (old .armed).state = .armed
          ∧ (old .settling).level? ≠ some true ∧ (old .settling).state ≠ .armed ∧ (old .settling).since = none) := by decide

theorem test_states_for_BoardReports :
    Quiet idle ∧ 12 ≤ (12 : Byte).toNat ∧ (95 : MarkerId).val = 8 * (11 : Byte).toNat + (7 : Fin 8).val
      ∧ (let s := idle.onPart fun p => { p with markers := { p.markers with
            time := 10, markers := Table.all { state := .settling, since := some 0, lastPulse := none } } }
         Quiet s ∧ (Table.at s.part.markers.markers 95).level? = some ((0x80 : Byte).getLsbD 6)
          ∧ (0x80 : Byte).getLsbD 7 = true
          ∧ ((Table.at s.part.markers.markers 95).since.any fun t =>
              s.part.markers.holdOff / 10 ≤ (s.part.markers.time - t).toNat) = true)
      ∧ (Table.at (withMarker { state := .active, since := none, lastPulse := none }).part.markers.markers 95).level? = some true
      ∧ (Table.at (withMarker { state := .unknown, since := none, lastPulse := none }).part.markers.markers 95).level? = none :=
  ⟨quiet_of rfl rfl, by decide, by decide, ⟨quiet_of rfl rfl, by decide⟩, by decide⟩

/-- Section 5 between markers 0 and 1 with the given state, convoy 0 with two members. -/
def passing (st : SectionStatus) : Road :=
  (onRoad fun r => (r.setConvoy 0 { convoyIn (.plain .running) with members := [member 0, member 1] }).setSect 5
    (secIn (twoWay 0 1) st)).part.road

theorem test_states_for_Reports :
    let r := fun (st : ConvoyState) (steps : List StepStatus) => (onSteps st 0 steps (.granted (holds 0 0 0))).part.road
    let next := fun (st : ConvoyState) (steps : List StepStatus) =>
      ((r st steps).convoy 0).route[((r st steps).convoy 0).lead + 1]?.map RouteStep.status
    let two := { convoyIn (.plain .running) with members := [member 0, member 1] }
    let logged := { holds 0 1 0 with log := [{ member := 1, time := 3 }] }
    ([] : List Nat) = [] ∧ [63, 64] ≠ []
      ∧ (∀ t ∈ ((r (.plain .running) [.held, .held]).convoy 0).route, t.sec ≠ 5)
      ∧ ((r (.plain .running) [.held, .held]).convoy 0).route[1]? = some (stepTo 1 .held)
      ∧ ((r (.plain .running) [.held]).convoy 0).route[1]? = none
      ∧ next (.plain .running) [.held] = none ∧ next (.plain .running) [.held, .held] = some .held
      ∧ next (.plain .waiting) [.held, .ahead] = some .ahead ∧ next (.plain .running) [.held, .lost] = some .lost
      ∧ (((r (.plain .waiting) [.held, .ahead]).convoy 0).state.base? = some .waiting
          ∧ ((r (.plain .standing) [.held, .ahead]).convoy 0).state.base? = some .standing)
      ∧ (((r (.plain .running) [.held]).sect 0).status.holding = some (holds 0 1 0)
          ∧ (holds 0 1 0).entered = ((r (.plain .running) [.held]).convoy 0).members.length)
      ∧ ((r (.plain .running) [.held, .held]).sect 1).status.holding = some (holds 0 0 0)
      ∧ (two.state = .plain .running ∧ two.halt.rearm = false ∧ (2 : Nat) ≤ 2
          ∧ ((passing (.occupied logged)).sect 5).status.holding = some logged
          ∧ logged.log.find? (fun e => decide (e.member = 2 - 1)) = some { member := 1, time := 3 })
      ∧ ((passing .free).sect 5).status.holding = none ∧ (holds 0 1 0).log.find? (fun e => decide (e.member = 2 - 1)) = none := by
  decide

theorem test_states_for_Pulses :
    (twoWay 0 1).entryMarker .aToB = some 0 ∧ (twoWay 0 1).exitMarker .aToB = some 1
      ∧ (twoWay 0 1).entryMarker .aToB ≠ some 2 ∧ (twoWay 0 1).exitMarker .aToB ≠ some 2
      ∧ ((passing (.granted (holds 0 1 0))).convoy 0).memberCount = 2
      ∧ ((passing (.granted (holds 0 1 0))).sect 5).status = .granted (holds 0 1 0)
      ∧ ((passing (.occupied (holds 0 2 1))).sect 5).status = .occupied (holds 0 2 1)
      ∧ ((passing (.occupied (holds 0 2 0))).sect 5).status = .occupied (holds 0 2 0)
      ∧ ((passing (.occupied (holds 0 1 1))).sect 5).status = .occupied (holds 0 1 1)
      ∧ ((passing .free).sect 5).status = .free ∧ (twoWay 0 1).names 1 = true ∧ (twoWay 0 1).names 2 = false
      ∧ (∀ j, ((passing .free).sect j).status.holding = none)
      ∧ ((passing (.fault .stray none)).sect 5).status = .fault .stray none := by decide

/-- Sections 0 and 1 granted to convoy 0 with moving points in section 0, whose timer stands at `left`. -/
def settlingGroup (left : Option Nat) : State := onRoad fun r =>
  { ((r.setConvoy 0 (convoyIn (.plain .waiting))).setSect 0 { secIn (points 0 1) (.granted (holds 0 0 0)) with settle := left }) with
    settling := [{ convoy := 0, first := 0, last := 1, sections := [0, 1] }] }

theorem test_states_for_SettleTimers :
    Quiet (settlingGroup (some 1)) ∧ ((settlingGroup none).part.road.sect 0).settle = none
      ∧ ((settlingGroup (some 1)).part.road.sect 0).settle.isSome = true
      ∧ (settlingGroup (some 1)).part.road.settling = [{ convoy := 0, first := 0, last := 1, sections := [0, 1] }]
      ∧ ((settlingGroup (some 1)).part.road.sect 1).settle = none
      ∧ (let r := ((settlingGroup (some 1)).part.road).setSect 1 { Section.blank with settle := some 1 }
         ∀ t ∈ r.settling, ∃ j ∈ t.sections, j ≠ 0 ∧ (r.sect j).settle.isSome = true) :=
  ⟨quiet_of rfl rfl, by decide⟩

/-- Convoys 0 and 1 both ask for section 1, which is FREE with points on line 0. -/
def twoAsk : Road := (onRoad fun r => ((((r.setLine 0 junctionLine).setSect 1 (secIn (points 1 2) .free)).setConvoy 0
  (convoyIn (.plain .waiting))).setRequest 0 (some (asking 0 3))).setRequest 1 (some (asking 1 0))).part.road

theorem test_states_for_TheArbiter :
    twoAsk.choice = some (0, asking 0 3) ∧ twoAsk.request 1 = some (asking 1 0) ∧ twoAsk.grantable 1 (asking 1 0) = true
      ∧ idle.part.road.choice = none := by decide

theorem test_states_for_AGrant :
    ((asking 0 0).legs.map Leg.sec).Nodup
      ∧ (∀ l ∈ (asking 0 0).legs, ∀ l' ∈ (asking 0 0).legs, l.sec = l'.sec)
      ∧ (grant 0 (asking 0 3) twoAsk).settling ≠ twoAsk.settling
      ∧ (∀ l ∈ (asking 0 0).legs, ((grant 0 (asking 0 3) (twoAsk.setSect 1 (secIn (twoWay 1 2) .free))).sect l.sec).settle = none)
      ∧ (∃ l ∈ (asking 0 3).legs, ((grant 0 (asking 0 3) twoAsk).sect l.sec).settle.isSome = true)
      ∧ (let v := { convoyIn (.plain .waiting) with route := [stepTo 0 .held, stepTo 1 .requested] }
         let r := grant 0 (asking 0 3) ((twoAsk.setConvoy 0 v).setSect 1 (secIn (twoWay 1 2) .free))
         v.route[1 + 1 - 1]? = some (stepTo 1 .requested) ∧ v.route[2]? = none
          ∧ (r.convoy 0).furthest = 1 ∧ (r.convoy 0).state = .plain .running) := by
  decide

theorem test_states_for_Reindex :
    let v := convoyIn (.plain .waiting)
    let w := { v with route := [stepTo 0 .done, stepTo 1 .ahead], lead := 1 }
    (v.route[0]? = some (stepTo 0 .held) ∧ 0 ≤ v.lead ∧ v.reindex.tail = 0 ∧ v.reindex.furthest = 0)
      ∧ w.route[0]? = some (stepTo 0 .done) ∧ w.route[1]? = some (stepTo 1 .ahead) ∧ w.route[2]? = none
      ∧ w.reindex.tail = 1 ∧ w.reindex.furthest = 1 := by decide

theorem test_states_for_PassedOver :
    twoAsk.request 0 = some (asking 0 3) ∧ (asking 0 3).arrival < (asking 1 0).arrival
      ∧ (asking 0 3).promoted = false ∧ twoAsk.leastPatience (asking 0 3) = 3
      ∧ (∀ l ∈ (asking 0 3).legs, (twoAsk.sect l.sec).defn = some (points 1 2) ∧ 3 ≤ (points 1 2).patience)
      ∧ twoAsk.request 7 = none ∧ (20 : SourceId) ≠ srcGrantPromoted
      ∧ (Table.at (promote twoAsk).notices.sources srcGrantPromoted).subjects = 1 := by decide

/-- Convoy 7 formed in section 0 of members on slots 0 to n - 1. -/
def formation (n : Nat) : Formation :=
  { convoy := 7, home := 0, dir := .aToB, travel := .forward, source := .host,
    members := (List.finRange 24).take n |>.map fun i => { member i with trailers := 2 } }

theorem test_states_for_Fcv :
    Ready (onRoute (.plain .standing) .free) ∧ (formation 1).members.length = 1 ∧ (formation 6).members.length = 6
      ∧ (∀ m ∈ (formation 6).members, m.trailers ≤ 2 ∧ m.trim = 0 ∧ m.lastGap = none)
      ∧ (let s := withSection (secIn (twoWay 0 1) .free)
         (s.part.road.convoy 7).state = .vacant ∧ ((formation 6).members.map Member.slot).Nodup
          ∧ (∀ k, k ≠ 7 → (s.part.road.convoy k).members = []) ∧ (s.part.road.sect 0).status = .free
          ∧ (s.part.road.sect 0).defn = some (twoWay 0 1) ∧ (twoWay 0 1).allowed = none ∧ (s.part.road.sect 0).earmark = none)
      ∧ { secIn (twoWay 0 1) .free with earmark := some 2 }.earmark.isSome = true
      ∧ (oneWay 0 1).allowed = some .aToB
      ∧ ((onRoute (.plain .standing) .free).part.road.convoy 0).state ≠ .vacant
      ∧ (∃ n ∈ ((onRoute (.plain .standing) .free).part.road.convoy 0).members, ∃ m ∈ (formation 1).members, n.slot = m.slot)
      ∧ ((onRoad id).part.road.sect 0).status ≠ .free :=
  ⟨ready_of rfl rfl, by decide⟩

theorem test_states_for_Dcv :
    Ready (onRoute (.plain .arrived) .free)
      ∧ ((onRoute (.plain .arrived) .free).part.road.convoy 0).state = .plain .arrived
      ∧ ((onRoute (.plain .standing) .free).part.road.convoy 0).state = .plain .standing
      ∧ ((onRoute (.plain .standing) .free).part.road.convoy 0).asked = none
      ∧ (onRoute (.plain .standing) .free).part.road.request 0 = none
      ∧ ((onRoute (.plain .standing) .free).part.road.sect 0).heldBy 0 = true
      ∧ ((onRoute (.plain .standing) .free).part.road.sect 1).heldBy 0 = false
      ∧ (onRoute (.plain .standing) .free).part.road.settling = []
      ∧ (let p := (onRoute (.plain .standing) .free).part
         AllClear { p with road := { p.road with
           sections := Table.mapAll (fun _ w => if w.heldBy 0 then { w with status := .out .disbanded, settle := none } else w)
             p.road.sections
           convoys := Table.put p.road.convoys 0 Convoy.vacant } })
      ∧ ((onRoute (.halted .arrived) .free).part.road.convoy 0).state ≠ .plain .arrived :=
  ⟨ready_of rfl rfl, by decide, by decide, by decide, by decide, by decide, by decide, by decide,
    clear_of (by decide) (by decide) (by decide) (by decide), by decide⟩

/-- A route through sections 0 and 1 in direction A_TO_B. -/
def twoSteps : List RouteStep := [stepTo 0 .ahead, stepTo 1 .ahead]

theorem fits_twoSteps : RouteFits (onRoute (.plain .standing) .free).part.road 0 twoSteps := by
  refine ⟨rfl, by decide, by decide, ?_, ?_, ?_, ?_, ?_, ?_⟩
  · intro t ht d hd a ha
    simp only [twoSteps, List.mem_cons, List.not_mem_nil, or_false] at ht
    rcases ht with rfl | rfl <;> · obtain rfl := Option.some.inj hd; cases ha
  · intro n t d hn hd hk
    match n with
    | 0 => obtain rfl := Option.some.inj hn; obtain rfl := Option.some.inj hd; cases hk
    | 1 => obtain rfl := Option.some.inj hn; obtain rfl := Option.some.inj hd; cases hk
    | n + 2 => cases hn
  · intro n t u d e hn hu hd he
    match n with
    | 0 =>
      obtain rfl := Option.some.inj hn; obtain rfl := Option.some.inj hu
      obtain rfl := Option.some.inj hd; obtain rfl := Option.some.inj he
      decide
    | 1 => cases hu
    | n + 2 => cases hn
  · refine ⟨by rintro t ⟨⟩; rfl, by rintro t ⟨⟩; rfl, ?_⟩
    rintro ⟨n, h⟩
    obtain ⟨t, ht, _⟩ := h 3 (by omega)
    rw [List.getElem?_eq_none (by simp [twoSteps])] at ht
    cases ht
  · intro t ht d hd
    simp only [twoSteps, List.mem_cons, List.not_mem_nil, or_false] at ht
    rcases ht with rfl | rfl <;> · obtain rfl := Option.some.inj hd; decide
  · rintro t d ⟨⟩ hd
    obtain rfl := Option.some.inj hd
    decide

theorem test_states_for_Lrt :
    Ready (onRoute (.plain .standing) .free) ∧ (1 ≤ twoSteps.length ∧ twoSteps.length ≤ 16)
      ∧ (List.replicate 16 (stepTo 0 .ahead)).length ≤ 16
      ∧ (let r := (onRoute (.plain .standing) .free).part.road
         (r.convoy 0).state = .plain .standing ∧ r.settling = [] ∧ (∀ j, (r.sect j).heldBy 0 = true ↔ j = 0)
          ∧ (r.sect 0).status = .occupied (holds 0 1 0) ∧ (holds 0 1 0).entered = (r.convoy 0).members.length
          ∧ (holds 0 1 0).exited = 0)
      ∧ RouteFits (onRoute (.plain .standing) .free).part.road 0 twoSteps ∧ twoSteps.head? = some (stepTo 0 .ahead)
      ∧ (stepTo 0 .ahead).dir = (holds 0 1 0).dir ∧ (stepTo 0 .ahead).dir ≠ { holds 0 1 0 with dir := .bToA }.dir
      ∧ ¬ RouteFits (onRoute (.plain .standing) .free).part.road 0 [stepTo 5 .ahead]
      ∧ (∀ j, ((onRoute (.plain .standing) .free).part.road.sect j).heldBy 1 = false) :=
  ⟨ready_of rfl rfl, by decide, by decide, by decide, fits_twoSteps, rfl, rfl, by decide,
    fun h => absurd h.first (by decide), by decide⟩

theorem test_states_for_Run :
    Ready (onRoute (.plain .standing) .free) ∧ (onRoute (.plain .standing) .free).part.parkHold = false
      ∧ (let v := (onRoute (.plain .standing) .free).part.road.convoy 0
         v.state = .plain .standing ∧ v.lead + 1 < v.route.length ∧ v.asked = none
          ∧ v.route[v.lead + 1]? = some (stepTo 1 .ahead) ∧ (stepTo 1 .ahead).link = false
          ∧ ∀ t ∈ v.route.drop (v.lead + 1), t.status ≠ .settling ∧ t.status ≠ .held)
      ∧ (inMode .park true (onRoute (.plain .standing) .free)).part.parkHold = true
      ∧ ((onRoute (.plain .running) .free).part.road.convoy 0).state ≠ .plain .standing
      ∧ AllClear (onRoute (.plain .standing) .free).part ∧ NoRequests (onRoute (.plain .standing) .free).part.road
      ∧ (onRoute (.plain .standing) .free).part.road.arrivals < 65535
      ∧ (let w := (onRoute (.plain .standing) .free).part.road.sect 1
         w.status = .free ∧ w.earmark = none ∧ w.settle = none ∧ w.defn = some (twoWay 1 2) ∧ (twoWay 1 2).junction = none)
      ∧ ((onRoute (.plain .standing) (.out .host)).part.road.sect 1).status ≠ .free :=
  ⟨ready_of rfl rfl, by decide, by decide, by decide, by decide,
    clear_of (by decide) (by decide) (by decide) (by decide), ⟨by decide, rfl⟩, by decide, by decide, by decide⟩

theorem test_states_for_Asks :
    let r := (onRoute (.plain .standing) .free).part.road
    (((withdrawAsked 0 r).convoy 0).route.length ≤ 2 ∧ 1 < ((withdrawAsked 0 r).convoy 0).route.length)
      ∧ ((asking 0 0).legs.map Leg.sec).Nodup ∧ r.arrivals ≠ 65535
      ∧ (let full := { twoAsk with arrivals := 65535 }
         full.arrivals = 65535 ∧ full.request 0 = some (asking 0 3) ∧ full.request 7 = none) := by decide

theorem test_states_for_Stp :
    Ready (onRoute (.plain .running) .free) ∧ ((onRoute (.plain .running) .free).part.road.convoy 0).state = .plain .running
      ∧ ((onRoute (.plain .waiting) .free).part.road.convoy 0).state = .plain .waiting
      ∧ ((onRoute (.halted .running) .free).part.road.convoy 0).state = .halted .running
      ∧ (let r := (onRoute (.plain .running) .free).part.road
         (r.convoy 0).asked = none ∧ r.request 0 = none ∧ r.settling = []
          ∧ ∀ t ∈ (r.convoy 0).route.drop ((r.convoy 0).lead + 1), t.status ≠ .settling ∧ t.status ≠ .held)
      ∧ AllClear (onRoute (.plain .running) .free).part
      ∧ ((onRoute (.plain .standing) .free).part.road.convoy 0).state = .plain .standing :=
  ⟨ready_of rfl rfl, by decide, by decide, by decide, by decide,
    clear_of (by decide) (by decide) (by decide) (by decide), by decide⟩

theorem test_states_for_Withdrawals :
    idle.part.road.request 0 = none ∧ twoAsk.request 0 = some (asking 0 3) ∧ (asking 0 3).promoted = false
      ∧ { asking 0 3 with promoted := true }.promoted = true ∧ (twoAsk.convoy 0).asked = none
      ∧ { convoyIn (.plain .waiting) with asked := some (1, 1) }.asked = some (1, 1) := by decide

def tuning (source : Option Nat) (trimStep : Nat) : TcvReq :=
  { convoy := 0, priority := some 15, lag := some 15, gapMin := some 6000, gapMax := some 6000, trimStep := some trimStep,
    source := source, cruise := some 100, ramp := some 20 }

def tcvFields (q : TcvReq) : List (Option Nat) :=
  [q.priority, q.lag, q.gapMin, q.gapMax, q.trimStep, q.source, q.cruise, q.ramp]

theorem fits_tuning (n k : Nat) (hn : n < 65536) (hk : k < 256) : FieldsFit tcvSizes (tcvFields (tuning (some n) k)) := by
  simp [FieldsFit, tcvSizes, tcvFields, tuning, hn, hk]

theorem test_states_for_Tcv :
    Ready (onRoute (.plain .standing) .free) ∧ (tuning none 5).convoy = b8 (0 : ConvoyId).val
      ∧ FieldsFit tcvSizes (tcvFields (tuning (some 0x207) 5))
      ∧ (∀ n, (tuning (some 0x207) 5).source = some n → n / 256 = 2 ∧ n % 256 ≤ 7)
      ∧ FieldsFit tcvSizes (tcvFields (tuning (some 0x208) 6)) ∧ ¬ (0x208 / 256 ≤ 1 ∨ 0x208 / 256 = 2 ∧ 0x208 % 256 ≤ 7)
      ∧ ((onRoute (.plain .standing) .free).part.road.convoy 0).state ≠ .vacant
      ∧ ((onRoute (.plain .standing) .free).part.road.convoy 1).state = .vacant
      ∧ ((onRoute (.plain .standing) .free).part.road.convoy 0).gapMax < 6000
      ∧ (let p := (onRoute (.plain .standing) .free).part
         AllClear { p with road := p.road.setConvoy 0 { p.road.convoy 0 with source := .timetable, lag := 15 } })
      ∧ (100 : Byte).toNat ≤ 100 ∧ 100 < (101 : Byte).toNat :=
  ⟨ready_of rfl rfl, by decide, fits_tuning _ _ (by decide) (by decide), by rintro n ⟨⟩; decide,
    fits_tuning _ _ (by decide) (by decide), by decide, by decide, by decide, by decide,
    clear_of (by decide) (by decide) (by decide) (by decide), by decide, by decide⟩

theorem test_states_for_Members :
    (convoyIn (.plain .running)).state = .plain .running ∧ (inMode .slow false idle).part.mode.mode = .slow
      ∧ (inMode .run false idle).part.mode.mode = .run ∧ (convoyIn (.plain .running)).halt.rearm = false
      ∧ (convoyIn (.plain .running)).route[0]? = some (stepTo 0 .held) ∧ idle.part.mode.mode = .hold := by decide

theorem test_states_for_Handsets :
    Quiet idle ∧ ((-100 : Int) = (0x9C : Byte).toInt ∧ (100 : Int) = (0x64 : Byte).toInt ∧ (7 : Byte).toNat < 8)
      ∧ ((0x9B : Byte).toInt < -100 ∧ 100 < (0x65 : Byte).toInt ∧ 8 ≤ (8 : Byte).toNat)
      ∧ (let s := inMode .park true (idle.onPart fun p => { p with mode := { p.mode with driverWake := true } })
         Quiet s ∧ s.part.mode.mode = .park ∧ s.part.mode.driverWake = true ∧ (1 : Byte).toInt ≠ 0 ∧ AllClear s.part)
      ∧ (Table.at (handset 0 { heard 5 with halt := true } idle).part.drivers.handsets 0).halt = true
      ∧ AllClear (handset 0 { heard 5 with halt := true } idle).part
      ∧ (∀ c, (idle.part.road.convoy c).state.formed = false) ∧ (1 : Byte).getLsbD 1 = false
      ∧ (Table.at (handset 7 (heard 0) idle).part.drivers.handsets 7).presence = .present 0
      ∧ (Table.at idle.part.drivers.handsets 7).presence = .lost
      ∧ (Table.at (handset 7 (heard 1) idle).part.drivers.handsets 7).presence ≠ .present 0 :=
  ⟨quiet_of rfl rfl, by decide, by decide,
    ⟨quiet_of rfl rfl, by decide, by decide, by decide, clear_of (by decide) (by decide) (by decide) (by decide)⟩,
    by decide, clear_of (by decide) (by decide) (by decide) (by decide), by decide, by decide, by decide, by decide⟩

theorem test_states_for_Halts :
    let v := (onRoute (.plain .running) .free).part.road.convoy 0
    (v.state ≠ .vacant ∧ (BitVec.twoPow 13 12 : SourceSet) &&& v.halt.enabled &&& ~~~v.halt.causes ≠ 0)
      ∧ Convoy.vacant.state = .vacant
      ∧ (let w := { v with state := .halted .running, halt := { v.halt with causes := 0x1001, restart := .auto } }
         w.state.isHalted = true ∧ w.halt.restart = .auto ∧ w.halt.causes &&& (~~~(0x3FF : SourceSet) ||| 0) ≠ 0
          ∧ (0x001 : SourceSet) &&& (~~~(0x3FF : SourceSet) ||| 0) = 0 ∧ v.halt.restart = .manual)
      ∧ v.route[v.lead + 1]? = some (stepTo 1 .ahead) ∧ (stepTo 1 .ahead).status ≠ .held
      ∧ { v with lead := 1 }.route[1 + 1]? = none ∧ v.nextStatus = some .ahead ∧ v.asked = none
      ∧ v.state.formed = true ∧ v.source = .host := by decide

theorem test_states_for_Levels :
    let s := (onRoute (.plain .running) .free).onPart (Part.onRoad fun r => r.setConvoy 0 { r.convoy 0 with source := .driver 7 })
    let v := s.part.road.convoy 0
    (v.state ≠ .vacant ∧ v.state.isHalted = false ∧ v.halt.causes = 0)
      ∧ activeLevels s.part.cells s.part.drivers 0 s.part.road &&& v.halt.enabled ≠ 0
      ∧ (s.part.road.convoy 1).state = .vacant
      ∧ (let w := { v with source := .timetable, ttDemand := 0, ramp := 20 }
         w.source = .timetable ∧ w.ttDemand = 0 ∧ w.ramp ≤ 20 ∧ 49 < 50) := by decide

theorem test_states_for_HaltRequests :
    Ready (onRoute (.halted .standing) .free) ∧ 8191 < 8192 ∧ 8192 < 65536
      ∧ (8 ≤ (8 : Byte).toNat ∧ 3 < (4 : Byte).toNat ∧ 1 < (2 : Byte).toNat)
      ∧ (let p := (onRoute (.plain .standing) .free).part
         (p.road.convoy 0).state.isHalted = false ∧ (p.road.convoy 0).halt.enabled.getLsbD 12 = true
          ∧ AllClear { p with road := p.road.setConvoy 0 { p.road.convoy 0 with halt := { HaltRecord.default with enabled := 0x1FFF } } })
      ∧ (let p := (onRoute (.halted .standing) .free).part
         (p.road.convoy 0).state = .halted .standing
          ∧ activeLevels p.cells p.drivers 0 p.road &&& (p.road.convoy 0).halt.enabled = 0
          ∧ AllClear { p with road := p.road.setConvoy 0 { p.road.convoy 0 with
              state := .plain .standing, ttDemand := 0, halt := { (p.road.convoy 0).halt with causes := 0, rearm := true },
              history := List.replicate 0 0 } })
      ∧ (let s := (onRoute (.halted .running) .free).onPart (Part.onRoad fun r => r.setConvoy 0 { r.convoy 0 with lead := 1 })
         (s.part.road.convoy 0).state = .halted .running ∧ (s.part.road.convoy 0).route[2]? = none
          ∧ (s.part.road.convoy 0).lead = 1
          ∧ AllClear { s.part with road := s.part.road.setConvoy 0 { s.part.road.convoy 0 with
              state := .plain .running, ttDemand := 0, halt := { (s.part.road.convoy 0).halt with causes := 0, rearm := true },
              history := List.replicate 0 0 } })
      ∧ (let p := ((onRoute (.halted .standing) .free).onPart (Part.onRoad fun r =>
            r.setConvoy 0 { r.convoy 0 with source := .driver 0 })).part
         activeLevels p.cells p.drivers 0 p.road &&& (p.road.convoy 0).halt.enabled ≠ 0) :=
  ⟨ready_of rfl rfl, by decide, by decide, by decide,
    ⟨by decide, by decide, clear_of (by decide) (by decide) (by decide) (by decide)⟩,
    ⟨by decide, by decide, clear_of (by decide) (by decide) (by decide) (by decide)⟩,
    ⟨by decide, by decide, by decide, clear_of (by decide) (by decide) (by decide) (by decide)⟩, by decide⟩

theorem test_states_for_Gates :
    let g : Gate := { terms := #v[.asRead, .inverted, .ignored, .ignored], invert := false }
    (∃ i, Table.at g.terms i ≠ .ignored) ∧ g.invert = false ∧ { g with invert := true }.invert = true
      ∧ (∀ i, Table.at Gate.empty.terms i = .ignored) := by decide

/-- An ENABLED cell of the given function. -/
def cellOf (fn : CellFn) : Cell := { Cell.blank with enabled := true, fn := fn, latch := true, last := some false }

def noGates : Gates := { g1 := false, g2 := false, g3 := false, g4 := false }

theorem test_states_for_CellFunctions :
    (∀ f, (cellOf f).enabled = true ∧ (cellOf f).fn = f ∧ (cellOf f).reload = false ∧ (cellOf f).latch = true)
      ∧ (noGates.g2 = false ∧ noGates.g3 = false ∧ noGates.g4 = false)
      ∧ Cell.blank.latch = false ∧ Cell.blank.remaining = 0 ∧ Cell.blank.enabled = false
      ∧ { cellOf .toggle with reload := true }.reload = true
      ∧ (cellOf .oneShot).last = some false ∧ (cellOf .oneShot).shotTime = 5 * 200
      ∧ { cellOf .oneShot with shotTime := 5 }.shotTime = 5 * 1 ∧ idle.resets.held = false := by
  refine ⟨fun f => ⟨rfl, rfl, rfl, rfl⟩, by decide⟩

/-- Cell 7 with output `out`, both notices on, as hold trigger and as gate of FLASH line 15, in mode RUN. -/
def edgeState (out : Bool) : State := inMode .run false (idle.onPart fun p => { p with
  cells := Table.put p.cells 7 { Cell.blank with
    enabled := !out, invert := true, output := out, riseNotice := true, fallNotice := true },
  mode := { p.mode with holdCell := some 7 },
  road := p.road.setLine 15 { Line.blank .low with function := .flash, flashGate := 7 } })

theorem test_states_for_TheScan :
    (∀ out, Quiet (edgeState out)) ∧ (Table.at (edgeState true).part.cells 7).enabled = false
      ∧ (∀ out, (edgeState out).part.parkHold = false ∧ ((edgeState out).part.road.line 15).function = .flash
          ∧ (edgeState out).part.mode.holdCell = some 7 ∧ (edgeState out).part.mode.mode = .run
          ∧ (Table.at (edgeState out).part.cells 7).output = out
          ∧ (Table.at (partAfter .cellScan (edgeState out)).cells 7).output = !out
          ∧ (Table.at (edgeState out).part.cells 7).riseNotice = true ∧ (Table.at (edgeState out).part.cells 7).fallNotice = true)
      ∧ (∀ k, (Table.at (partAfter .cellScan idle).cells k).output = (Table.at idle.part.cells k).output)
      ∧ AllClear idle.part ∧ (inMode .slow false idle).part.mode.mode = .slow
      ∧ ((Table.at idle.part.cells 7).riseNotice = false ∧ (Table.at idle.part.cells 7).fallNotice = false)
      ∧ ((inMode .park true idle).part.parkHold = true ∧ (idle.part.road.line 15).function ≠ .flash) :=
  ⟨fun _ => quiet_of rfl rfl, by decide, by decide, by decide,
    clear_of (by decide) (by decide) (by decide) (by decide), by decide, by decide, by decide⟩

/-- What each kind of selector reads, true and false. -/
theorem test_states_for_Selectors :
    let p := (onRoute (.plain .running) (.fault .stray none)).part
    let q := { (handset 7 (heard 0) idle).part with pulses := { minute := true, quarter := false, hour := true } }
    (p.road.sect 0).status.holding = some (holds 0 1 0) ∧ (p.road.sect 1).status.holding = none
      ∧ (p.road.sect 1).status = .fault .stray none
      ∧ p.input p.cells (.sectionHeld 0) = true ∧ p.input p.cells (.sectionFault 0) = false
      ∧ p.input p.cells (.sectionFault 1) = true ∧ p.input p.cells (.convoyRunning 0) = true
      ∧ p.input p.cells (.convoyWaiting 0) = false ∧ p.input p.cells (.convoyHalted 0) = false
      ∧ q.input q.cells (.driverPresent 7) = true ∧ q.input q.cells (.driverPresent 0) = false
      ∧ q.input q.cells (.clockPulse .minute) = true ∧ q.input q.cells (.clockPulse .quarter) = false
      ∧ q.input q.cells (.modeIs .hold) = true ∧ q.input q.cells (.modeIs .run) = false := by decide

def sclOf (selector shotTime : Nat) : SclReq :=
  { cell := 7, enable := some 1, selectors := [some selector, none, none, none],
    gates := [some 0xAA01, none, none, none], fn := some 5, invert := some 1, shotTime := some shotTime, rise := some 0,
    fall := none }

theorem fits_scl (a b : Nat) (ha : a < 65536) (hb : b < 65536) :
    FieldsFit sclSizes ([(sclOf a b).enable] ++ (sclOf a b).selectors ++ (sclOf a b).gates
      ++ [(sclOf a b).fn, (sclOf a b).invert, (sclOf a b).shotTime, (sclOf a b).rise, (sclOf a b).fall]) := by
  simp [FieldsFit, sclSizes, sclOf, ha, hb]

theorem test_states_for_Scl :
    Ready idle ∧ (sclOf 0x003F 25500).cell = b8 (7 : CellId).val ∧ (sclOf 0x003F 25500).selectors.length = 4
      ∧ (sclOf 0x003F 25500).gates.length = 4 ∧ (0x003F < 65536 ∧ 25500 < 65536 ∧ 25500 % 100 = 0)
      ∧ (selectorOf? (0x003F / 256) (0x003F % 256)).isSome = true ∧ (selectorOf? (0x0040 / 256) (0x0040 % 256)).isSome = false
      ∧ (0xAA01 % 256 ≤ 1 ∧ ∀ j < 4, 0xAA01 / 256 / 4 ^ j % 4 ≤ 2) ∧ 25600 > 25500 ∧ 150 % 100 ≠ 0 :=
  ⟨ready_idle, by decide⟩

def sslOf (address : Nat) : SslReq :=
  { slot := 23, address := some address, span := some 600, brake := some 600, deadFR := some 3000,
    deadRF := some 0, reverse := some 15 }

theorem fits_ssl (n : Nat) (h : n < 256) :
    FieldsFit sslSizes [(sslOf n).address, (sslOf n).span, (sslOf n).brake, (sslOf n).deadFR, (sslOf n).deadRF, (sslOf n).reverse] := by
  simp [FieldsFit, sslSizes, sslOf, h]

/-- Slots 22 and 23, the first with an address. -/
def withSlots (address : Nat) (t : Slot) : State := idle.onPart fun p => { p with composer := { p.composer with
  slots := Table.put (Table.put p.composer.slots 22 { Slot.blank with settings := { Slot.blank.settings with address := some address } })
    23 t } }

theorem test_states_for_RecordQueries :
    (withSection (secIn (points 0 95) (.out .host))).part.road.sect 0 = secIn (points 0 95) (.out .host)
      ∧ (secIn (points 0 95) (.out .host)).defn = some (points 0 95) ∧ Ready (withSection (secIn (points 0 95) (.out .host)))
      ∧ (idle.part.road.sect 0).defn = none ∧ (idle.part.road.sect 0).status = .undefined
      ∧ (Table.at idle.part.composer.slots 0).neutralSince = none
      ∧ (let s := withSlots 59 { Slot.blank with neutralSince := some 0 }
         (Table.at s.part.composer.slots 23).neutralSince = some 0 ∧ s.part.composer.frameTime - 0 < 0xFFFF)
      ∧ (points 0 95).junction = some { line := 0, settle := 2000 } ∧ (∀ k, (idle.part.road.sect k).defn = none) := by
  refine ⟨by decide, rfl, ready_of rfl rfl, by decide⟩

theorem test_states_for_Ssl :
    Ready (withSlots 59 Slot.blank) ∧ (sslOf 60).slot = b8 (23 : SlotId).val
      ∧ (60 < 256 ∧ 600 ≤ 600 ∧ 3000 % 100 = 0 ∧ 15 < 16) ∧ ¬ (61 = 0xFF ∨ (1 ≤ 61 ∧ 61 ≤ 60))
      ∧ (∀ j, j ≠ 23 → (Table.at (withSlots 59 Slot.blank).part.composer.slots j).settings.address ≠ some 60
          ∧ (Table.at (withSlots 59 Slot.blank).part.composer.slots j).waiting = none)
      ∧ (Table.at (withSlots 60 Slot.blank).part.composer.slots 22).settings.address = some 60
      ∧ (Table.at (withSlots 59 Slot.blank).part.composer.slots 23).onAir = .offAir
      ∧ (Table.at (withSlots 59 { Slot.blank with onAir := .onAir }).part.composer.slots 23).onAir ≠ .offAir :=
  ⟨ready_of rfl rfl, by decide⟩

theorem test_states_for_SlotRequests :
    Ready idle ∧ (800 ≤ 2200 ∧ 2200 < 65536) ∧ 799 < 800 ∧ 2200 < 2201 ∧ (14 : Byte).toNat ∈ [14, 18, 22, 30, 45]
      ∧ (45 : Byte).toNat ∈ [14, 18, 22, 30, 45] ∧ (15 : Byte).toNat ∉ [14, 18, 22, 30, 45] := ⟨ready_idle, by decide⟩

def keyedSlot (o : OnAir) (waiting : Option SlotSettings) : Slot :=
  { Slot.blank with keyed := true, settings := { Slot.blank.settings with address := some 60 }, onAir := o, waiting := waiting }

theorem test_states_for_Frames :
    (∀ t m h, Quiet (inMode m h (withSlots 59 t)))
      ∧ (∀ o, (keyedSlot o none).keyed = true ∧ (keyedSlot o none).settings.address.isSome = true)
      ∧ (withSlots 59 (keyedSlot .onAir none)).part.road.placeOf 23 = none
      ∧ (inMode .park true (withSlots 59 (keyedSlot (.rundown 0) none))).part.parkHold = true
      ∧ (withSlots 59 (keyedSlot .offAir none)).part.parkHold = false
      ∧ (Table.at (partAfter .frameStart (withSlots 59 (keyedSlot .onAir (some Slot.blank.settings)))).composer.slots 23).waiting = none
      ∧ (keyedSlot .onAir (some Slot.blank.settings)).waiting.isSome = true
      ∧ (keyedSlot .onAir none).channels.coupler.mode = .fixed
      ∧ (let s := (onRoute (.halted .running) .free).onPart (Part.onRoad fun r =>
            r.setConvoy 0 { r.convoy 0 with halt := { HaltRecord.default with throttle := .release } })
         s.part.road.placeOf 0 = some (0, 0) ∧ (s.part.road.convoy 0).state.isHalted = true
          ∧ (s.part.road.convoy 0).halt.throttle = .release) := by
  refine ⟨fun _ _ _ => quiet_of rfl rfl, fun _ => ⟨rfl, rfl⟩, by decide⟩

/-- Slot 0 as the first member of convoy 0, with STEERED channels, keyed and with an address. -/
def steeredSlot (st : ConvoyState) (lights : LightsAction) : State :=
  (onRoute st .free).onPart fun p =>
    let c : Channel := { mode := .steered, value := 1500 }
    let t := { Slot.blank with
      keyed := true, settings := { Slot.blank.settings with address := some 1 },
      channels := { throttle := c, coupler := c, lights := c, aux := c } }
    { p with
      composer := { p.composer with slots := Table.put p.composer.slots 0 t },
      road := p.road.setConvoy 0 { p.road.convoy 0 with
        source := .driver 0, halt := { HaltRecord.default with lights := lights } } }

theorem test_states_for_Channels :
    (∀ st l, Quiet (steeredSlot st l))
      ∧ (∀ l, (steeredSlot (.halted .running) l).part.road.placeOf 0 = some (0, 0)
          ∧ ((steeredSlot (.halted .running) l).part.road.convoy 0).state = .halted .running
          ∧ ((steeredSlot (.halted .running) l).part.road.convoy 0).halt.lights = l)
      ∧ ((steeredSlot (.plain .waiting) .on).part.road.convoy 0).state = .plain .waiting
      ∧ (steeredSlot (.plain .waiting) .on).part.road.placeOf 1 = none
      ∧ (let s := handset 0 { heard 1 with horn := true } (steeredSlot (.plain .running) .on)
         (s.part.road.convoy 0).source = .driver 0 ∧ (Table.at s.part.drivers.handsets 0).horn = true
          ∧ (Table.at (partAfter .frameStart s).composer.slots 0).onAir = .onAir
          ∧ (Table.at (partAfter .frameStart s).composer.slots 0).sent.map Sent.aux = some 2000
          ∧ (Table.at (partAfter .frameStart s).composer.slots 0).settings.address = some 1)
      ∧ (Table.at (partAfter .frameStart idle).composer.slots 0).onAir = .offAir := by
  refine ⟨fun _ _ => quiet_of rfl rfl, ?_, by decide⟩
  intro l
  cases l <;> decide

theorem test_states_for_Throttle :
    let t := { Slot.blank with direction := some .forward, neutralSince := some 0 }
    let drive : Throttle := { value := { us := 1501, composed := true }, cls := .drive .reverse }
    drive.cls = .drive .reverse ∧ t.direction = some .forward ∧ t.settings.deadFR = 500 ∧ 500 ≤ 500 - 0 ∧ ¬ 500 ≤ 499 - 0
      ∧ Slot.blank.direction = none ∧ { drive with cls := ThrottleClass.stop }.cls = .stop
      ∧ { Slot.blank with direction := some .reverse }.direction = some .reverse := by decide

def slnOf (direction function : Nat) : SlnReq :=
  { line := 15, direction := some direction, drive := some 1, function := some function, invert := some 1,
    wake := some 0, period := some 4000, gate := some 7 }

theorem fits_sln (a b : Nat) (ha : a < 256) (hb : b < 65536) :
    FieldsFit slnSizes [(slnOf a b).direction, (slnOf a b).drive, (slnOf a b).function, (slnOf a b).invert, (slnOf a b).wake,
      (slnOf a b).period, (slnOf a b).gate] := by
  simp [FieldsFit, slnSizes, slnOf, ha, hb]

theorem test_states_for_Sln :
    Ready idle ∧ (slnOf 1 0x0300).line = b8 (15 : LineId).val ∧ (1 < 256 ∧ 0x0300 < 65536)
      ∧ (0x0207 / 256 = 2 ∧ 0x0207 % 256 ≤ 7) ∧ ¬ 0x0400 / 256 ≤ 3 ∧ 4000 ∈ [500, 1000, 2000, 4000]
      ∧ (∀ k, (idle.part.road.sect k).defn = none)
      ∧ (let s := withSection (secIn (points 0 1) .free)
         Ready s ∧ (s.part.road.sect 0).defn = some (points 0 1) ∧ (points 0 1).junction = some { line := 0, settle := 2000 })
      ∧ lineDirectionOf? 0 = some .input ∧ lineFunctionOf? 3 0 = some .flash ∧ lineFunctionOf? 0 0 = some .data := by
  refine ⟨ready_idle, by decide, by decide, by decide, by decide, by decide, by decide, ⟨ready_of rfl rfl, by decide, by decide⟩,
    by decide, by decide, by decide⟩

theorem test_states_for_SlnWake :
    let s := inMode .park true (onRoad fun r => r.setLine 15 { Line.blank .low with wake := true })
    let q : SlnReq := { line := 15, direction := none, drive := none, function := none, invert := some 1, wake := none,
                        period := none, gate := none }
    Ready s ∧ q.line = b8 (15 : LineId).val
      ∧ FieldsFit slnSizes [q.direction, q.drive, q.function, q.invert, q.wake, q.period, q.gate]
      ∧ (s.part.mode.mode = .park ∧ (s.part.road.line 15).direction = .input ∧ (s.part.road.line 15).wake = true
          ∧ (s.part.road.line 15).frozen = none ∧ (s.part.road.line 15).wire = .low ∧ (s.part.road.line 15).invert = false)
      ∧ (∀ k, (s.part.road.sect k).defn = none) ∧ (partAfter (.sln 0 (slnBody q)) s).mode.mode = .hold :=
  ⟨ready_of rfl rfl, by decide, by simp [FieldsFit, slnSizes], by decide⟩

theorem test_states_for_Lines :
    Ready idle ∧ Quiet idle ∧ (1 : Byte).toNat ≤ 1 ∧ 1 < (2 : Byte).toNat
      ∧ (let s := inMode .park true (onRoad fun r => r.setLine 15 { Line.blank .low with wake := true })
         Quiet s ∧ (s.part.road.line 15).direction = .input ∧ (s.part.road.line 15).wake = true
          ∧ (s.part.road.line 15).frozen = none ∧ (s.part.road.line 15).wire = .low ∧ s.part.mode.mode = .park) :=
  ⟨ready_idle, quiet_of rfl rfl, by decide, by decide, quiet_of rfl rfl, by decide⟩

/-- A driven line of each function, an undriven one, and a frozen one. -/
theorem test_states_for_LineValues :
    let l := { Line.blank .high with direction := .output, drive := .enabled, data := true }
    let flashing := { l with function := .flash, flashGate := 7, flash := some { phase := false, left := 9 } }
    let on := (edgeState true).part.cells
    let off := (edgeState false).part.cells
    (l.function = .data ∧ l.frozen = none ∧ l.direction = .output ∧ l.drive = .enabled)
      ∧ { l with function := .junction }.function = .junction ∧ { l with function := .cell 7 }.function = .cell 7
      ∧ (flashing.function = .flash ∧ flashing.flash = some { phase := false, left := 9 } ∧ l.flash = none)
      ∧ (Table.at on flashing.flashGate).output = true ∧ (Table.at off flashing.flashGate).output = false
      ∧ (flashing.drivenValue on, flashing.drivenValue off) = (false, true)
      ∧ (l.pinOut false on = some .high ∧ { l with invert := true }.pinOut false on = some .low)
      ∧ (l.pinOut true on = none ∧ { l with invert := true }.level true on = false)
      ∧ { l with drive := .released }.drive ≠ .enabled
      ∧ { l with frozen := some { pin := .low, level := true } }.frozen = some { pin := .low, level := true } := by decide

theorem test_states_for_Clock :
    Ready idle ∧ (1 ≤ (7 : Byte).toNat ∧ (7 : Byte).toNat ≤ 7) ∧ (23 : Byte).toNat ≤ 23 ∧ (59 : Byte).toNat ≤ 59
      ∧ (12 : Byte).toNat ≤ 12 ∧ ¬ 1 ≤ (0 : Byte).toNat ∧ 1 < (2 : Byte).toNat ∧ idle.part.clock.second < 30
      ∧ (Ready lastSecond ∧ 30 ≤ lastSecond.part.clock.second) ∧ Quiet lastSecond ∧ Quiet idle
      ∧ idle.part.clock.running = false ∧ lastSecond.part.clock.running = true ∧ lastSecond.part.clock.second = 59
      ∧ 1000 ≤ lastSecond.part.clock.fraction + lastSecond.part.clock.ratio
      ∧ (lastSecond.onPart fun p => { p with clock := { p.clock with second := 58 } }).part.clock.second ≠ 59 :=
  ⟨ready_idle, by decide, by decide, by decide, by decide, by decide, by decide, by decide, ⟨ready_of rfl rfl, by decide⟩,
    quiet_of rfl rfl, quiet_of rfl rfl, by decide⟩

/-- Departure 4 of the given action, for the given convoy, and a convoy 0 that stands ready. -/
def departing (a : DepartureAction) (c : Option ConvoyId) : State :=
  (onRoute (.plain .standing) .free).onPart fun p => { p with
    departures := Table.put p.departures 4 { Departure.blank with enabled := true, action := a, convoy := c } }

theorem test_states_for_Departures :
    (∀ a c, (Table.at (departing a c).part.departures 4).action = a ∧ (Table.at (departing a c).part.departures 4).convoy = c)
      ∧ (inMode .park true (departing .wake none)).part.mode.mode = .park
      ∧ (inMode .run true (departing .resume none)).part.mode.mode ≠ .hold ∧ (departing .resume none).part.mode.mode = .hold
      ∧ (departing .start (some 0)).part.honours (Table.at (departing .start (some 0)).part.departures 4)
      ∧ ¬ (departing .start (some 7)).part.honours (Table.at (departing .start (some 7)).part.departures 4)
      ∧ ¬ (inMode .park true (departing .start (some 0))).part.honours
          (Table.at (departing .start (some 0)).part.departures 4)
      ∧ (Table.at (departing .start (some 7)).part.departures 4).matches (departing .start (some 7)).part.clock
      ∧ ¬ ((departing .start (some 7)).part.newMinute.examined 4).honours (Table.at (departing .start (some 7)).part.departures 4)
      ∧ ¬ (Table.at (departing .start (some 7)).part.departures 3).matches (departing .start (some 7)).part.clock := by
  refine ⟨fun _ _ => ⟨rfl, rfl⟩, by decide, by decide, by decide, ⟨0, by decide⟩, ?_, ?_, ?_, ?_, ?_⟩
  · rintro ⟨c, hc, hd, _⟩
    obtain rfl : c = 7 := by simpa using (show (some (7 : ConvoyId) = some c) from hc).symm
    exact absurd hd (by decide)
  · rintro ⟨c, _, _, h⟩
    exact absurd h (by decide)
  · exact ⟨by decide, by rintro n ⟨⟩; decide, by rintro n ⟨⟩; decide, by rintro n ⟨⟩; decide⟩
  · rintro ⟨c, hc, hd, _⟩
    obtain rfl : c = 7 := by simpa using (show (some (7 : ConvoyId) = some c) from hc).symm
    exact absurd hd (by decide)
  · exact fun h => absurd h.1 (by decide)

def sdpOf (action : Nat) (convoy : Option Nat) : SdpReq :=
  { entry := 7, enable := some 1, day := some 0xFF, hour := some 23, minute := some 59, action := some action,
    convoy := convoy, cruise := some 100, ramp := some 20, resetMissed := true }

theorem fits_sdp (a n : Nat) (ha : a < 256) (hn : n < 256) :
    FieldsFit sdpSizes [(sdpOf a (some n)).enable, (sdpOf a (some n)).day, (sdpOf a (some n)).hour, (sdpOf a (some n)).minute,
      (sdpOf a (some n)).action, (sdpOf a (some n)).convoy, (sdpOf a (some n)).cruise, (sdpOf a (some n)).ramp,
      if (sdpOf a (some n)).resetMissed then some 0 else none] := by
  simp [FieldsFit, sdpSizes, sdpOf, ha, hn]

theorem test_states_for_Sdp :
    Ready idle ∧ (sdpOf 0 (some 7)).entry = b8 (7 : DepartureId).val ∧ (0 < 256 ∧ 7 < 256)
      ∧ departureActionOf? 0 = some .start ∧ index? 8 7 = some (7 : ConvoyId) ∧ departureActionOf? 3 = some .signal
      ∧ index? 8 0xFF = none ∧ departureActionOf? 4 = none ∧ ¬ (8 = 0xFF ∨ 8 ≤ 7) := ⟨ready_idle, by decide⟩

def smoOf (slow : Nat) (cell : Option Nat) : SmoReq :=
  { slowLimit := some slow, holdCell := cell, driverWake := some 1 }

theorem test_states_for_Modes :
    (∀ m l s, s.link = idle.link → s.resets = idle.resets → Ready (inMode m l s))
      ∧ (∀ m l, (inMode m l idle).part.mode.mode = m ∧ (inMode m l idle).part.mode.latch = l)
      ∧ (Table.numbers (inMode .hold false idle).part.road.convoys fun v =>
          decide (v.state.base? = some .waiting) || decide (v.state.base? = some .running)) = []
      ∧ (Table.numbers (inMode .hold false (onRoute (.halted .waiting) .free)).part.road.convoys fun v =>
          decide (v.state.base? = some .waiting) || decide (v.state.base? = some .running)) = [0]
      ∧ FieldsFit smoSizes [(smoOf 5 (some 7)).slowLimit, (smoOf 5 (some 7)).holdCell, (smoOf 5 (some 7)).driverWake]
      ∧ FieldsFit smoSizes [(smoOf 60 (some 0xFF)).slowLimit, (smoOf 60 (some 0xFF)).holdCell, (smoOf 60 (some 0xFF)).driverWake]
      ∧ ¬ (5 ≤ 61 ∧ 61 ≤ 60) := by
  refine ⟨?_, fun _ _ => ⟨rfl, rfl⟩, by decide, by decide, ?_, ?_, by decide⟩
  · intro m l s hl hr
    exact ready_of hl hr
  · simp [FieldsFit, smoSizes, smoOf]
  · simp [FieldsFit, smoSizes, smoOf]

end Sys2Proof.Tests
end

section
/-! SUPPORT. The condition cells: what a gate's value says of its terms (R116), what a reload keeps, and what one scan does to an
ENABLED cell (R117, R122). -/

namespace Sys2Proof.Machine

/-! ## Gates (R116) -/

/-- The gate includes a term: one of its four is not IGNORE. -/
def Gate.IncludesATerm (g : Gate) : Prop := ∃ i, Table.at g.terms i ≠ .ignored

/-- Every term of the gate lets it be true at these inputs. -/
def Gate.AllTermsHold (inputs : Fin 4 → Bool) (g : Gate) : Prop :=
  ∀ i, (Table.at g.terms i = .asRead → inputs i = true) ∧ (Table.at g.terms i = .inverted → inputs i = false)

theorem Term.holds_iff (t : Term) (input : Bool) :
    t.holds input = true ↔ (t = .asRead → input = true) ∧ (t = .inverted → input = false) := by
  cases t with
  | ignored => simp [Term.holds]
  | asRead => simp [Term.holds]
  | inverted => simp [Term.holds]

/-- The value of a gate differs from its invert flag exactly when the AND of its included terms is true. -/
theorem Gate.value_ne_invert_iff (inputs : Fin 4 → Bool) (g : Gate) :
    g.value inputs ≠ g.invert ↔ g.IncludesATerm ∧ g.AllTermsHold inputs := by
  have turned (a b : Bool) : (a != b) ≠ b ↔ a = true := by cases a <;> simp
  simp only [Gate.value, turned, Bool.and_eq_true, List.any_eq_true, List.all_eq_true, List.mem_finRange, true_and,
    forall_const, decide_eq_true_eq, Term.holds_iff, Gate.IncludesATerm, Gate.AllTermsHold]

theorem Gate.value_iff_of_plain {g : Gate} (h : g.invert = false) (inputs : Fin 4 → Bool) :
    g.value inputs = true ↔ g.IncludesATerm ∧ g.AllTermsHold inputs := by
  rw [← Gate.value_ne_invert_iff, h, Bool.ne_false_iff]

theorem Gate.value_iff_of_inverted {g : Gate} (h : g.invert = true) (inputs : Fin 4 → Bool) :
    g.value inputs = true ↔ ¬ (g.IncludesATerm ∧ g.AllTermsHold inputs) := by
  rw [← Gate.value_ne_invert_iff, h, not_not]

theorem Gate.value_of_empty {g : Gate} (h : ∀ i, Table.at g.terms i = .ignored) (inputs : Fin 4 → Bool) :
    g.value inputs = g.invert := by
  have none_included : ¬ g.IncludesATerm := fun ⟨i, included⟩ => included (h i)
  by_contra differs
  exact none_included ((Gate.value_ne_invert_iff inputs g).mp differs).1

/-! ## Reload (R122) -/

/-- A reload changes latch, one-shot remaining, gate 1 last and the reload flag alone. -/
theorem Cell.reloaded_eq (c : Cell) :
    c.reloaded = { c with latch := c.reloaded.latch, remaining := c.reloaded.remaining, last := c.reloaded.last,
                          reload := c.reloaded.reload } := by
  unfold Cell.reloaded
  split
  · rfl
  · rfl

@[simp] theorem Cell.reloaded_enabled (c : Cell) : c.reloaded.enabled = c.enabled := by rw [Cell.reloaded_eq]
@[simp] theorem Cell.reloaded_fn (c : Cell) : c.reloaded.fn = c.fn := by rw [Cell.reloaded_eq]
@[simp] theorem Cell.reloaded_invert (c : Cell) : c.reloaded.invert = c.invert := by rw [Cell.reloaded_eq]

theorem Cell.reloaded_latch (c : Cell) : c.reloaded.latch = (!c.reload && c.latch) := by
  unfold Cell.reloaded
  cases c.reload with
  | false => rfl
  | true => rfl

theorem Cell.reloaded_remaining (c : Cell) : c.reloaded.remaining = if c.reload then 0 else c.remaining := by
  unfold Cell.reloaded
  cases c.reload with
  | false => rfl
  | true => rfl

/-! ## One scan of an ENABLED cell (R117, R122) -/

theorem Cell.scanned_of_enabled {c : Cell} (h : c.enabled = true) (gates : Cell → Gates) :
    c.scanned gates =
      { (c.reloaded.apply (gates c.reloaded)).1 with
        output := (c.reloaded.apply (gates c.reloaded)).2 != c.invert, last := some (gates c.reloaded).g1 } := by
  simp [Cell.scanned, h]

theorem Cell.apply_of_andOr {c : Cell} (h : c.fn = .andOr) (g : Gates) :
    c.apply g = (c, (g.g1 && g.g2) || (g.g3 && g.g4)) := by simp [Cell.apply, h]

theorem Cell.apply_of_orXor {c : Cell} (h : c.fn = .orXor) (g : Gates) :
    c.apply g = (c, (g.g1 || g.g2) != (g.g3 || g.g4)) := by simp [Cell.apply, h]

theorem Cell.apply_of_allFour {c : Cell} (h : c.fn = .allFour) (g : Gates) :
    c.apply g = (c, g.g1 && g.g2 && g.g3 && g.g4) := by simp [Cell.apply, h]

/-- A plain function leaves the cell as it is. -/
theorem Cell.apply_keeps_of_plain {c : Cell} (h : c.fn = .andOr ∨ c.fn = .orXor ∨ c.fn = .allFour) (g : Gates) :
    (c.apply g).1 = c := by
  obtain h | h | h := h
  · rw [Cell.apply_of_andOr h]
  · rw [Cell.apply_of_orXor h]
  · rw [Cell.apply_of_allFour h]

section Enabled

variable {c : Cell} (enabled : c.enabled = true) (gates : Cell → Gates)
include enabled

theorem Cell.scanned_output_of_andOr (h : c.fn = .andOr) :
    (c.scanned gates).output
      = ((((gates c.reloaded).g1 && (gates c.reloaded).g2) || ((gates c.reloaded).g3 && (gates c.reloaded).g4)) != c.invert) := by
  rw [Cell.scanned_of_enabled enabled, Cell.apply_of_andOr (c.reloaded_fn.trans h)]

theorem Cell.scanned_output_of_orXor (h : c.fn = .orXor) :
    (c.scanned gates).output
      = ((((gates c.reloaded).g1 || (gates c.reloaded).g2) != ((gates c.reloaded).g3 || (gates c.reloaded).g4)) != c.invert) := by
  rw [Cell.scanned_of_enabled enabled, Cell.apply_of_orXor (c.reloaded_fn.trans h)]

theorem Cell.scanned_output_of_allFour (h : c.fn = .allFour) :
    (c.scanned gates).output
      = (((gates c.reloaded).g1 && (gates c.reloaded).g2 && (gates c.reloaded).g3 && (gates c.reloaded).g4) != c.invert) := by
  rw [Cell.scanned_of_enabled enabled, Cell.apply_of_allFour (c.reloaded_fn.trans h)]

/-- Under a plain function a scan touches latch and one-shot remaining by the reload alone. -/
theorem Cell.scanned_keeps_of_plain (h : c.fn = .andOr ∨ c.fn = .orXor ∨ c.fn = .allFour) :
    (c.scanned gates).latch = c.reloaded.latch ∧ (c.scanned gates).remaining = c.reloaded.remaining := by
  have plain : c.reloaded.fn = .andOr ∨ c.reloaded.fn = .orXor ∨ c.reloaded.fn = .allFour := by rwa [Cell.reloaded_fn]
  rw [Cell.scanned_of_enabled enabled, Cell.apply_keeps_of_plain plain]
  exact ⟨rfl, rfl⟩

end Enabled

end Sys2Proof.Machine
end

section
/-! Gates and the plain functions of the condition cells (R116, R117). -/

namespace Sys2Proof.Machine

/-- Settles O45: a gate's value differs from its invert flag exactly when the AND of its included terms is true. -/
theorem gatesAreTheAndOfTheirTerms : Obligations.GatesAreTheAndOfTheirTerms := by
  refine ⟨fun inputs g => ⟨?plain, ?inverted, ?empty⟩, ?formedAtTheScan⟩
  case plain => exact fun h => Gate.value_iff_of_plain h inputs
  case inverted => exact fun h => Gate.value_iff_of_inverted h inputs
  case empty => exact fun h => Gate.value_of_empty h inputs
  case formedAtTheScan => exact fun p outs c => rfl

/-- Settles O46, one clause for each function from its output at a scan; with gates 2 to 4 false the output of OR_XOR and AND_OR is
then computed. -/
theorem plainFunctionsFollowTheGates : Obligations.PlainFunctionsFollowTheGates := by
  intro c gates enabled
  refine ⟨Cell.scanned_output_of_andOr enabled gates, Cell.scanned_output_of_orXor enabled gates,
    Cell.scanned_output_of_allFour enabled gates, fun plain => ?stays, fun g2 g3 g4 => ⟨fun orXor => ?passes, fun andOr => ?blocks⟩⟩
  case stays =>
    obtain ⟨latch, remaining⟩ := Cell.scanned_keeps_of_plain enabled gates plain
    constructor
    · intro h
      rw [latch, Cell.reloaded_latch, h, Bool.and_false]
    · intro h
      rw [remaining, Cell.reloaded_remaining, h, ite_self]
  case passes =>
    rw [Cell.scanned_output_of_orXor enabled gates orXor, g2, g3, g4]
    simp only [Bool.or_false, Bool.bne_false]
  case blocks =>
    rw [Cell.scanned_output_of_andOr enabled gates andOr, g2, g3]
    simp only [Bool.and_false, Bool.false_and, Bool.or_false, Bool.false_bne]

end Sys2Proof.Machine
end

section
/-! The clock law (R158, R161). -/

namespace Sys2Proof.Machine

/-! ## What an answer can be -/

/-- A property that the answers of each group keep is kept by every answer. -/
theorem partAnswers_keep {P : Part → Prop} {body : List Byte} {p : Part} (h : P p)
    (road : ∀ f ∈ roadAnswers body, P (f p).1) (slot : ∀ f ∈ slotAnswers body, P (f p).1)
    (others : ∀ f ∈ [answerSmk body, answerScl body, answerSsl body, answerSln body, answerSck body, answerRck body,
      answerAdj body, answerSdp body, answerMod body, answerSmo body, answerPrl body], P (f p).1) :
    ∀ f ∈ partAnswers body, P (f p).1 := by
  intro f hf
  simp only [partAnswers, List.mem_append] at hf
  obtain ((query | isRoad) | isSlot) | other := hf
  · rw [queryAnswer_part query]; exact h
  · exact road f isRoad
  · exact slot f isSlot
  · exact others f other

/-! ## The clock -/

@[simp] theorem wakeTrigger_clock (p : Part) : (wakeTrigger p).clock = p.clock := by
  obtain e | ⟨-, e⟩ := wakeTrigger_cases p
  · rw [e]
  · rw [e]; rfl

@[simp] theorem resumeTrigger_clock (p : Part) : (resumeTrigger p).clock = p.clock := by
  obtain e | ⟨-, e⟩ := resumeTrigger_cases p
  · rw [e]
  · rw [e]; rfl

@[simp] theorem holdTrigger_clock (p : Part) : (holdTrigger p).clock = p.clock := by
  obtain e | e := holdTrigger_cases p
  · rw [e]
  · rw [e]; rfl

@[simp] theorem offerRise_clock (l : LineId) (p q : Part) : (offerRise l p q).clock = q.clock := by
  obtain e | e := offerRise_cases l p q
  · rw [e]
  · rw [e, wakeTrigger_clock]

/-- The clock shows a time (ClockLaw, of the clock alone). -/
def LayoutClock.ShowsATime (k : LayoutClock) : Prop :=
  1 ≤ k.day ∧ k.day ≤ 7 ∧ k.hour ≤ 23 ∧ k.minute ≤ 59 ∧ k.second ≤ 59 ∧ k.fraction ≤ 999 ∧ 1 ≤ k.ratio ∧ k.ratio ≤ 12

theorem LayoutClock.ShowsATime.carryDay {k : LayoutClock} (h : k.ShowsATime) : k.carryDay.ShowsATime := by
  unfold LayoutClock.ShowsATime LayoutClock.carryDay at *
  dsimp only
  split <;> omega

theorem LayoutClock.ShowsATime.carryHour {k : LayoutClock} (h : k.ShowsATime) : k.carryHour.ShowsATime := by
  unfold LayoutClock.carryHour
  split
  · apply LayoutClock.ShowsATime.carryDay
    simp only [LayoutClock.ShowsATime] at h ⊢
    omega
  · simp only [LayoutClock.ShowsATime] at h ⊢
    omega

theorem LayoutClock.ShowsATime.carryMinute {k : LayoutClock} (h : k.ShowsATime) : k.carryMinute.ShowsATime := by
  unfold LayoutClock.carryMinute
  split
  · apply LayoutClock.ShowsATime.carryHour
    simp only [LayoutClock.ShowsATime] at h ⊢
    omega
  · simp only [LayoutClock.ShowsATime] at h ⊢
    omega

theorem LayoutClock.ShowsATime.aged {k : LayoutClock} (h : k.ShowsATime) : k.aged.ShowsATime := by
  unfold LayoutClock.aged
  split
  next below =>
    simp only [LayoutClock.ShowsATime, Bool.and_eq_true, decide_eq_true_eq] at h below ⊢
    omega
  next => exact h

/-- A fraction below 1000 and a ratio of at most 12 leave less than 1000 once the due second is taken off. -/
theorem LayoutClock.ShowsATime.ticked {k : LayoutClock} (h : k.ShowsATime) : k.ticked.ShowsATime := by
  simp only [LayoutClock.ShowsATime, LayoutClock.ticked] at h ⊢
  omega

theorem LayoutClock.ShowsATime.withSecond {k : LayoutClock} (h : k.ShowsATime) {n : Nat} (hn : n ≤ 59) :
    ({ k with second := n } : LayoutClock).ShowsATime := by
  simp only [LayoutClock.ShowsATime] at h ⊢
  omega

theorem LayoutClock.showsATime_blank : LayoutClock.blank.ShowsATime := by
  unfold LayoutClock.ShowsATime LayoutClock.blank
  decide

@[simp] theorem fireDeparture_clock (i : DepartureId) (p : Part) : (fireDeparture i p).clock = p.clock :=
  fireDeparture_keeps (P := fun q => q.clock = p.clock) i p (fun _ h => h) (fun c e q h => by rw [depart_part]; exact h)
    (fun _ h => h) (fun q h => (wakeTrigger_clock q).trans h) (fun q h => (resumeTrigger_clock q).trans h) rfl

@[simp] theorem minuteChange_clock (p : Part) : (minuteChange p).clock = p.clock :=
  minuteChange_keeps (P := fun q => q.clock = p.clock) p (fun _ _ h => h)
    (fun i q h => (fireDeparture_clock i q).trans h) rfl

theorem showsATime_scaleSecond {p : Part} (h : p.clock.ShowsATime) : (scaleSecond p).clock.ShowsATime := by
  unfold scaleSecond
  split
  · dsimp only
    split
    · rw [minuteChange_clock]
      exact (h.ticked.withSecond (Nat.zero_le 59)).carryMinute
    next below => exact h.ticked.withSecond (by have := h.ticked.2.2.2.2.1; omega)
  · exact h

theorem showsATime_answerSck (body : List Byte) {p : Part} (h : p.clock.ShowsATime) :
    (answerSck body p).1.clock.ShowsATime := by
  unfold answerSck
  split
  · unfold sck
    split
    next inRange =>
      simp only [Bool.and_eq_true, Bool.or_eq_true, decide_eq_true_eq] at inRange
      simp only [LayoutClock.ShowsATime, accept, noneOr] at h ⊢
      split <;> simp only [Option.getD_none, Option.getD_some] <;> omega
    next => exact h
  · exact h

theorem showsATime_answer {body : List Byte} {p : Part} (h : p.clock.ShowsATime) :
    ∀ f ∈ partAnswers body, (f p).1.clock.ShowsATime := by
  refine partAnswers_keep (P := fun p => p.clock.ShowsATime) h (fun f hf => ?road) (fun f hf => ?slot) fun f hf => ?others
  case road =>
    obtain ⟨r, e⟩ := roadAnswer_part hf p
    rw [e]; exact h
  case slot =>
    obtain ⟨k, e, -⟩ := slotAnswer_part hf p
    rw [e]; exact h
  case others =>
    simp only [List.mem_cons, List.not_mem_nil, or_false] at hf
    rcases hf with rfl | rfl | rfl | rfl | rfl | rfl | rfl | rfl | rfl | rfl | rfl
    · obtain ⟨k, e⟩ := answerSmk_part body p; rw [e]; exact h
    · obtain ⟨k, e⟩ := answerScl_part body p; rw [e]; exact h
    · obtain ⟨t, r, e, -⟩ := answerSsl_part body p; rw [e]; exact h
    · obtain e | ⟨l, v, e | e⟩ := answerSln_part body p
      · rw [e]; exact h
      · rw [e]; exact h
      · rw [e, wakeTrigger_clock]; exact h
    · exact showsATime_answerSck body h
    · obtain ⟨b, e⟩ := answerRck_part body p; rw [e]; exact h
    · have rounded : ({ p.clock with second := 0, fraction := 0 } : LayoutClock).ShowsATime := by
        simp only [LayoutClock.ShowsATime] at h ⊢
        omega
      obtain e | e | e := answerAdj_part body p
      · rw [e]; exact h
      · rw [e]; exact rounded
      · rw [e, minuteChange_clock]; exact rounded.carryMinute
    · obtain ⟨t, e⟩ := answerSdp_part body p; rw [e]; exact h
    · obtain e | e | ⟨m, -, e⟩ := answerMod_part body p <;> rw [e] <;> exact h
    · obtain ⟨k, e, -⟩ := answerSmo_part body p; rw [e]; exact h
    · obtain e | ⟨-, e⟩ := answerPrl_part body p <;> rw [e] <;> exact h

/-- Every operation of the part keeps a clock that shows a time. -/
theorem showsATime_partLaw : PartLaw fun p => p.clock.ShowsATime where
  answer := fun _ _ hf _ h => showsATime_answer h _ hf
  cleared := fun _ _ h => h
  announced := fun _ _ _ h => h
  linkError := fun _ h => h
  boardReport := fun b l p h => by
    refine boardReport_keeps (P := fun p => p.clock.ShowsATime) (fun m b p h => ?_) b l p h
    obtain ⟨k, e | e⟩ := markerLevel_part m b p <;> rw [e] <;> exact h
  holdOffExpiry := fun _ _ h => h
  markerTimeTick := fun _ h => h
  settleTimerExpiry := fun i p h => by
    obtain ⟨r, e, -⟩ := settleTimerExpiry_part i p
    rw [e]; exact h
  handsetUpdate := fun d t b p h => by
    obtain ⟨k, r, -, e | e⟩ := handsetUpdate_part d t b p
    · rw [e]; exact h
    · rw [e, wakeTrigger_clock]; exact h
  lostTimerExpiry := fun d p h => by
    obtain e | ⟨r, -, e⟩ := lostTimerExpiry_part d p <;> rw [e] <;> exact h
  cellScan := fun p h => by
    obtain ⟨q, rfl, e | ⟨-, e⟩⟩ := cellScan_part p
    · rw [e, Part.reviewHalts_clock]; exact h
    · rw [e, Part.reviewHalts_clock, holdTrigger_clock]; exact h
  oneShotExpiry := fun _ _ h => h
  frameStart := fun _ h => h
  linePinChange := fun l v p h => by
    rw [linePinChange, offerRise_clock]; exact h
  wire := fun _ _ _ h => h
  flashToggle := fun _ _ h => h
  scaleSecond := fun _ h => showsATime_scaleSecond h
  discarded := fun p h => by
    unfold Part.discarded; exact h
  afterReset := fun cause pins p h => by
    cases cause with
    | powerOn => exact LayoutClock.showsATime_blank
    | resetLine => exact h
    | command => exact h
  aged := fun _ h => h.aged

/-- Settles O4: the clock's own operations keep its ranges, and no other operation reaches it. -/
theorem clockShowsATime : Obligations.ClockShowsATime :=
  fun _ _ law ran => showsATime_partLaw.step law ran

end Sys2Proof.Machine
end

section
/-! The park hold keeps every slot off the air (R136, R143). -/

namespace Sys2Proof.Machine

/-! ## The park hold -/

/-- Leaving PARK sets the latch, so only a change to PARK itself, and PRL, reach the park hold (R181, R182). -/
theorem parkHold_changeMode {m : Mode} (h : m ≠ .park) (p : Part) : (changeMode m p).parkHold = p.parkHold := by
  simp [Part.parkHold, ModeControl.parkHold, ModeControl.to, h, Bool.or_comm]

/-! ## What is on the air -/

@[simp] theorem Slot.applied_onAir (t : Slot) : t.applied.onAir = t.onAir := by
  unfold Slot.applied
  split <;> rfl

@[simp] theorem Slot.silenced_onAir (t : Slot) : t.silenced.onAir = .offAir := by simp [Slot.silenced]

@[simp] theorem Slot.hold_onAir (now : Nat) (v : Throttle) (t : Slot) : (t.hold now v).2.onAir = t.onAir := by
  unfold Slot.hold
  split
  · rfl
  · split <;> rfl

@[simp] theorem Slot.composed_onAir (now : Nat) (drivers : DriverPort) (air : OnAir) (place : Option Place) (t : Slot) :
    (t.composed now drivers air place).onAir = air := by
  unfold Slot.composed
  dsimp only
  split <;> simp

/-- Under the park hold no frame start puts a slot on the air (R136, R143). -/
theorem Slot.framed_not_onAir (now : Nat) (drivers : DriverPort) (place : Option Place) (t : Slot) :
    (t.framed now true drivers place).onAir ≠ .onAir := by
  have decided : (t.decide true place).1 ≠ .onAir := by
    unfold Slot.decide
    split
    · split
      · simp
      · simp only [Bool.not_true, Bool.false_eq_true, if_false]
        split <;> simp
    · simp
  unfold Slot.framed
  dsimp only
  split
  · rw [Slot.composed_onAir]; exact decided
  · simp

theorem Slot.parked_not_onAir (t : Slot) : t.parked.onAir ≠ .onAir := by
  unfold Slot.parked
  split
  · simp
  next h => exact h

theorem Slot.discarded_not_onAir {t : Slot} (h : t.onAir ≠ .onAir) : t.discarded.onAir ≠ .onAir := by
  unfold Slot.discarded
  split
  · simp
  · exact h

/-! ## The law -/

/-- ParkLaw, of the part alone. -/
def Part.NoneOnAirInHold (p : Part) : Prop :=
  p.parkHold = true → ∀ i, (Table.at p.composer.slots i).onAir ≠ .onAir

theorem Part.NoneOnAirInHold.of_eq {p q : Part} (h : p.NoneOnAirInHold) (hold : q.parkHold = p.parkHold)
    (air : ∀ i, (Table.at q.composer.slots i).onAir = (Table.at p.composer.slots i).onAir) : q.NoneOnAirInHold := by
  intro held i
  rw [air i]
  exact h (hold ▸ held) i

/-- The law speaks of the mode and the composer alone. -/
theorem Part.NoneOnAirInHold.of_parts {p q : Part} (h : p.NoneOnAirInHold) (mode : q.mode = p.mode)
    (composer : q.composer = p.composer) : q.NoneOnAirInHold :=
  h.of_eq (by rw [Part.parkHold, Part.parkHold, mode]) fun _ => by rw [composer]

theorem Part.NoneOnAirInHold.reviewHalts {p : Part} (h : p.NoneOnAirInHold) : p.reviewHalts.NoneOnAirInHold :=
  h.of_parts p.reviewHalts_mode p.reviewHalts_composer

theorem Part.NoneOnAirInHold.changeMode {p : Part} (h : p.NoneOnAirInHold) {m : Mode} (other : m ≠ .park) :
    (changeMode m p).NoneOnAirInHold :=
  h.of_eq (parkHold_changeMode other p) fun _ => rfl

theorem Part.NoneOnAirInHold.wakeTrigger {p : Part} (h : p.NoneOnAirInHold) : (wakeTrigger p).NoneOnAirInHold := by
  obtain e | ⟨-, e⟩ := wakeTrigger_cases p
  · rw [e]; exact h
  · rw [e]; exact h.changeMode (m := .hold) (by decide)

theorem Part.NoneOnAirInHold.resumeTrigger {p : Part} (h : p.NoneOnAirInHold) : (resumeTrigger p).NoneOnAirInHold := by
  obtain e | ⟨-, e⟩ := resumeTrigger_cases p
  · rw [e]; exact h
  · rw [e]; exact h.changeMode (m := .run) (by decide)

theorem Part.NoneOnAirInHold.holdTrigger {p : Part} (h : p.NoneOnAirInHold) : (holdTrigger p).NoneOnAirInHold := by
  obtain e | e := holdTrigger_cases p
  · rw [e]; exact h
  · rw [e]; exact h.changeMode (m := .hold) (by decide)

theorem Part.NoneOnAirInHold.offerRise {p q : Part} (l : LineId) (h : q.NoneOnAirInHold) :
    (offerRise l p q).NoneOnAirInHold := by
  obtain e | e := offerRise_cases l p q
  · rw [e]; exact h
  · rw [e]; exact h.wakeTrigger

/-- Park entry sends every slot that is on the air into its rundown (R143). -/
theorem noneOnAirInHold_parkEntry (p : Part) : (parkEntry p).NoneOnAirInHold := by
  intro _ i
  simp only [parkEntry, changeMode_composer, Composer.mapSlots, Table.at_mapAll]
  exact Slot.parked_not_onAir _

/-- Outside PARK the end of the hold leaves no hold. -/
theorem noneOnAirInHold_endHold {p : Part} (h : p.mode.mode ≠ .park) : (endHold p).NoneOnAirInHold := by
  intro held
  simp [endHold, Part.parkHold, ModeControl.parkHold, h] at held

theorem noneOnAirInHold_fireDeparture (i : DepartureId) {p : Part} (h : p.NoneOnAirInHold) :
    (fireDeparture i p).NoneOnAirInHold :=
  fireDeparture_keeps i p (fun _ h => h.of_parts rfl rfl)
    (fun c e q h => h.of_parts (by rw [depart_part]) (by rw [depart_part])) (fun _ h => h.of_parts rfl rfl)
    (fun _ h => h.wakeTrigger) (fun _ h => h.resumeTrigger) h

theorem noneOnAirInHold_minuteChange {p : Part} (h : p.NoneOnAirInHold) : (minuteChange p).NoneOnAirInHold :=
  minuteChange_keeps p (fun _ _ h => h) (fun i _ h => noneOnAirInHold_fireDeparture i h) h

theorem noneOnAirInHold_answer {body : List Byte} {p : Part} (h : p.NoneOnAirInHold) :
    ∀ f ∈ partAnswers body, (f p).1.NoneOnAirInHold := by
  refine partAnswers_keep h (fun f hf => ?road) (fun f hf => ?slot) fun f hf => ?others
  case road =>
    obtain ⟨r, e⟩ := roadAnswer_part hf p
    rw [e]; exact h
  case slot =>
    obtain ⟨k, e, air⟩ := slotAnswer_part hf p
    rw [e]; exact h.of_eq rfl air
  case others =>
    simp only [List.mem_cons, List.not_mem_nil, or_false] at hf
    rcases hf with rfl | rfl | rfl | rfl | rfl | rfl | rfl | rfl | rfl | rfl | rfl
    · obtain ⟨k, e⟩ := answerSmk_part body p; rw [e]; exact h
    · obtain ⟨k, e⟩ := answerScl_part body p; rw [e]; exact h
    · obtain ⟨t, r, e, air, -⟩ := answerSsl_part body p; rw [e]; exact h.of_eq rfl air
    · obtain e | ⟨l, v, e | e⟩ := answerSln_part body p
      · rw [e]; exact h
      · rw [e]; exact h
      · rw [e]
        exact Part.NoneOnAirInHold.wakeTrigger (p := p.setLine l v) h
    · obtain ⟨k, e⟩ := answerSck_part body p; rw [e]; exact h
    · obtain ⟨b, e⟩ := answerRck_part body p; rw [e]; exact h
    · obtain e | e | e := answerAdj_part body p
      · rw [e]; exact h
      · rw [e]; exact h
      · rw [e]; exact noneOnAirInHold_minuteChange h
    · obtain ⟨t, e⟩ := answerSdp_part body p; rw [e]; exact h
    · obtain e | e | ⟨m, other, e⟩ := answerMod_part body p
      · rw [e]; exact h
      · rw [e]; exact noneOnAirInHold_parkEntry p
      · rw [e]; exact h.changeMode other
    · obtain ⟨k, e, mode, latch⟩ := answerSmo_part body p
      rw [e]
      exact h.of_eq (by simp only [Part.parkHold, ModeControl.parkHold, mode, latch]) fun _ => rfl
    · obtain e | ⟨other, e⟩ := answerPrl_part body p
      · rw [e]; exact h
      · rw [e]; exact noneOnAirInHold_endHold other

theorem noneOnAirInHold_partLaw : PartLaw Part.NoneOnAirInHold where
  answer := fun _ _ hf _ h => noneOnAirInHold_answer h _ hf
  cleared := fun _ _ h => h
  announced := fun _ _ _ h => h
  linkError := fun _ h => h
  boardReport := fun b l p h => by
    refine boardReport_keeps (fun m b p h => ?_) b l p h
    obtain ⟨k, e | e⟩ := markerLevel_part m b p <;> rw [e] <;> exact h
  holdOffExpiry := fun _ _ h => h
  markerTimeTick := fun _ h => h
  settleTimerExpiry := fun i p h => by
    obtain ⟨r, e, -⟩ := settleTimerExpiry_part i p
    rw [e]; exact h
  handsetUpdate := fun d t b p h => by
    obtain ⟨k, r, -, e | e⟩ := handsetUpdate_part d t b p
    · rw [e]; exact h
    · rw [e]
      exact Part.NoneOnAirInHold.wakeTrigger (p := { p with drivers := k, road := r }) h
  lostTimerExpiry := fun d p h => by
    obtain e | ⟨r, -, e⟩ := lostTimerExpiry_part d p <;> rw [e] <;> exact h
  cellScan := fun p h => by
    obtain ⟨q, hq, e⟩ := cellScan_part p
    have scanned : q.NoneOnAirInHold := by rw [hq]; exact h
    obtain e | ⟨-, e⟩ := e
    · rw [e]
      exact scanned.reviewHalts
    · rw [e]
      exact scanned.holdTrigger.reviewHalts
  oneShotExpiry := fun _ _ h => h
  frameStart := fun p _ held i => by
    have hold : p.parkHold = true := held
    simp only [frameStart, Part.framedSlots, Table.at_mapAll, hold]
    exact Slot.framed_not_onAir _ _ _ _
  linePinChange := fun l v p h => Part.NoneOnAirInHold.offerRise (q := p.setLine l _) l h
  wire := fun _ _ _ h => h
  flashToggle := fun _ _ h => h
  scaleSecond := fun p h => by
    unfold scaleSecond
    split
    · dsimp only
      split
      · exact noneOnAirInHold_minuteChange h
      · exact h.of_parts rfl rfl
    · exact h
  discarded := fun p h held i => by
    have before := h held i
    simp only [Part.discarded, Composer.mapSlots, Table.at_mapAll]
    exact Slot.discarded_not_onAir before
  afterReset := fun cause pins p _ held => by
    cases cause <;> simp [Part.afterReset, Part.powerOn, Part.warmReset, ModeControl.blank, ModeControl.afterReset,
      Part.parkHold, ModeControl.parkHold] at held
  aged := fun _ h => h

/-- Settles O5: park entry and a frame start under the hold list no slot as ON_AIR, and nothing else begins the hold or puts a
slot on the air. -/
theorem noSlotOnAirUnderTheParkHold : Obligations.NoSlotOnAirUnderTheParkHold :=
  fun _ _ law ran => noneOnAirInHold_partLaw.step law ran

end Sys2Proof.Machine
end

section
/-! The transmitter's choice among the notice sources (R199). -/

namespace Sys2Proof.Machine

/-! ## The best of a list, the earlier one of equals -/

/-- One step of a search for the best entry so far. -/
def keepBetter {α : Type} (better : α → α → Bool) (best : Option α) (e : α) : Option α :=
  match best with
  | none => some e
  | some b => if better e b then some e else some b

/-- What such a search finds goes strictly before what comes earlier in the list, and nothing later goes before it. -/
theorem foldl_keepBetter {α : Type} {better : α → α → Bool}
    (trans : ∀ a b c, better a b = true → better b c = true → better a c = true)
    (split : ∀ a b c, better a c = true → better a b = true ∨ better b c = true) (xs : List α) :
    (xs = [] ∧ xs.foldl (keepBetter better) none = none)
      ∨ ∃ pre x post, xs = pre ++ x :: post ∧ xs.foldl (keepBetter better) none = some x
          ∧ (∀ y ∈ pre, better x y = true) ∧ ∀ y ∈ post, better y x = false := by
  induction xs using List.reverseRecOn with
  | nil => exact Or.inl ⟨rfl, rfl⟩
  | append_singleton xs e ih =>
    right
    rw [List.foldl_append]
    obtain ⟨rfl, found⟩ | ⟨pre, x, post, rfl, found, before, after⟩ := ih
    · exact ⟨[], e, [], rfl, rfl, by simp, by simp⟩
    · rw [found]
      cases goes : better e x with
      | true =>
        refine ⟨pre ++ x :: post, e, [], by simp, by simp [keepBetter, goes], fun y hy => ?_, by simp⟩
        obtain inPre | rfl | inPost : y ∈ pre ∨ y = x ∨ y ∈ post := by simpa using hy
        · exact trans e x y goes (before y inPre)
        · exact goes
        · exact (split e y x goes).resolve_right (by simp [after y inPost])
      | false =>
        refine ⟨pre, x, post ++ [e], by simp, by simp [keepBetter, goes], before, fun y hy => ?_⟩
        obtain inPost | rfl : y ∈ post ∨ y = e := by simpa using hy
        · exact after y inPost
        · exact goes

/-! ## The choice -/

/-- The one source's notice goes before the other's. -/
def NoticeControl.higher (k : NoticeControl) (i j : SourceId) : Bool :=
  decide ((Table.at k.sources j).priority < (Table.at k.sources i).priority)

theorem NoticeControl.next?_eq (k : NoticeControl) :
    k.next? = (Table.numbers k.sources NoticeSource.announceable).foldl (keepBetter k.higher) none := by
  unfold NoticeControl.next?
  congr 1
  funext best i
  cases best with
  | none => rfl
  | some b => simp [keepBetter, NoticeControl.higher]

/-- Source `i` is announceable and no announceable source goes before it (R199). -/
def NoticeControl.IsFirst (k : NoticeControl) (i : SourceId) : Prop :=
  (Table.at k.sources i).announceable = true
    ∧ ∀ j, (Table.at k.sources j).announceable = true →
        (Table.at k.sources j).priority < (Table.at k.sources i).priority
          ∨ ((Table.at k.sources j).priority = (Table.at k.sources i).priority ∧ i ≤ j)

theorem NoticeControl.IsFirst.unique {k : NoticeControl} {i j : SourceId} (hi : k.IsFirst i) (hj : k.IsFirst j) : i = j := by
  have ij := hi.2 j hj.1
  have ji := hj.2 i hi.1
  rw [Fin.le_def] at ij ji
  apply Fin.ext
  omega

theorem Table.numbers_sorted {α : Type} {n : Nat} (t : Table α n) (f : α → Bool) : (Table.numbers t f).Pairwise (· < ·) :=
  (List.pairwise_lt_finRange n).filter _

/-- The choice is none with nothing announceable, and the first announceable source otherwise. -/
theorem NoticeControl.next?_cases (k : NoticeControl) :
    (k.next? = none ∧ ∀ j, (Table.at k.sources j).announceable = false) ∨ ∃ i, k.next? = some i ∧ k.IsFirst i := by
  rw [NoticeControl.next?_eq]
  have found := foldl_keepBetter (better := k.higher) (fun a b c => by simp only [NoticeControl.higher, decide_eq_true_eq]; omega)
    (fun a b c => by simp only [NoticeControl.higher, decide_eq_true_eq]; omega)
    (Table.numbers k.sources NoticeSource.announceable)
  obtain ⟨empty, e⟩ | ⟨pre, i, post, e, chosen, before, after⟩ := found
  · refine Or.inl ⟨e, fun j => ?_⟩
    rw [← Bool.not_eq_true, ← Table.mem_numbers, empty]
    exact List.not_mem_nil
  · refine Or.inr ⟨i, chosen, ?_, fun j announceable => ?_⟩
    · rw [← Table.mem_numbers, e]; simp
    · rw [← Table.mem_numbers, e] at announceable
      have sorted := Table.numbers_sorted k.sources NoticeSource.announceable
      rw [e, List.pairwise_append, List.pairwise_cons] at sorted
      obtain ⟨-, ⟨later, -⟩, -⟩ := sorted
      simp only [NoticeControl.higher, decide_eq_true_eq, decide_eq_false_iff_not] at before after
      obtain inPre | rfl | inPost : j ∈ pre ∨ j = i ∨ j ∈ post := by simpa using announceable
      · exact Or.inl (before j inPre)
      · exact Or.inr ⟨rfl, le_refl _⟩
      · have notHigher := after j inPost
        have higherNumber := later j inPost
        rw [Fin.le_def]
        omega

theorem NoticeControl.next?_eq_some {k : NoticeControl} {i : SourceId} : k.next? = some i ↔ k.IsFirst i := by
  obtain ⟨e, nothing⟩ | ⟨j, e, first⟩ := k.next?_cases
  · simp [e, NoticeControl.IsFirst, nothing]
  · rw [e, Option.some.injEq]
    exact ⟨fun same => same ▸ first, fun firstToo => first.unique firstToo⟩

theorem NoticeControl.next?_eq_none {k : NoticeControl} : k.next? = none ↔ ∀ j, (Table.at k.sources j).announceable = false := by
  obtain ⟨e, nothing⟩ | ⟨j, e, first⟩ := k.next?_cases
  · exact ⟨fun _ => nothing, fun _ => e⟩
  · refine ⟨fun absent => ?_, fun nothing => ?_⟩
    · rw [e] at absent; cases absent
    · have := nothing j
      rw [first.1] at this; cases this

/-- Settles O20: the search through the announceable sources in ascending number keeps the first of the highest priority. -/
theorem theNoticeChosenIsTheFirst : Obligations.TheNoticeChosenIsTheFirst :=
  fun _ _ => ⟨NoticeControl.next?_eq_some, NoticeControl.next?_eq_none⟩

end Sys2Proof.Machine
end

section
/-! Announced sources are pending, and sources 0 to 3 have no subjects (R197, R199). -/

namespace Sys2Proof.Machine

/-! ## The law, of the notice controller alone -/

def NoticeSource.Sound (i : SourceId) (n : NoticeSource) : Prop :=
  (n.announced = true → n.pending = true) ∧ (i.val ≤ 3 → n.subjects = 0)

def NoticeControl.Sound (k : NoticeControl) : Prop := ∀ i, NoticeSource.Sound i (Table.at k.sources i)

theorem NoticeControl.Sound.upd {k : NoticeControl} (h : k.Sound) (src : SourceId) (seq : Byte) {f : NoticeSource → NoticeSource}
    (keeps : ∀ n, n = Table.at k.sources src → NoticeSource.Sound src n → NoticeSource.Sound src (f n)) :
    NoticeControl.Sound { sources := Table.upd k.sources src f, seq := seq } := by
  intro i
  rw [Table.at_upd]
  split
  next same =>
    subst same
    exact keeps _ rfl (h i)
  next => exact h i

/-- A raise of one of the sources 0 to 3 carries no subject (R197). -/
theorem NoticeControl.Sound.raise {k : NoticeControl} (h : k.Sound) {src : SourceId} {u : BitVec 64}
    (subjects : src.val ≤ 3 → u = 0) : (k.raise src u).Sound := by
  refine h.upd src k.seq fun n _ sound => ⟨fun _ => rfl, fun low => ?_⟩
  simp [NoticeSource.raised, sound.2 low, subjects low]

theorem NoticeControl.Sound.announce {k : NoticeControl} (h : k.Sound) {i : SourceId} (chosen : k.next? = some i) :
    (NoticeControl.announce i k).Sound := by
  have announceable := (NoticeControl.next?_eq_some.mp chosen).1
  simp only [NoticeSource.announceable, Bool.and_eq_true] at announceable
  refine h.upd i _ fun n same sound => ⟨fun _ => ?_, sound.2⟩
  rw [same]
  exact announceable.1.1

theorem NoticeControl.Sound.foldl_upd {α : Type} {k : NoticeControl} (h : k.Sound) (xs : List α) (src : α → SourceId)
    (f : α → NoticeSource → NoticeSource) (keeps : ∀ x i n, NoticeSource.Sound i n → NoticeSource.Sound i (f x n)) :
    NoticeControl.Sound { k with sources := xs.foldl (fun t x => Table.upd t (src x) (f x)) k.sources } := by
  induction xs generalizing k with
  | nil => exact h
  | cons x xs ih => exact ih (h.upd (src x) k.seq fun n _ sound => keeps x _ n sound)

theorem NoticeControl.Sound.eachOf {k : NoticeControl} (h : k.Sound) (srcs : List SourceId) {f : NoticeSource → NoticeSource}
    (keeps : ∀ i n, NoticeSource.Sound i n → NoticeSource.Sound i (f n)) : (NoticeControl.eachOf f srcs k).Sound :=
  h.foldl_upd srcs (fun i => i) (fun _ => f) fun _ => keeps

theorem NoticeControl.Sound.prioritised {k : NoticeControl} (h : k.Sound) (es : List (SourceId × Nat)) :
    (NoticeControl.prioritised es k).Sound :=
  h.foldl_upd es Prod.fst (fun e n => { n with priority := e.2 }) fun _ _ _ sound => sound

/-- What the reports, the arbiter and the halt unit raise is none of the sources 0 to 3, and they announce nothing. -/
theorem NoticeControl.Sound.kept {k k' : NoticeControl} (h : k.Sound) (kept : NoticeControl.Kept k k') : k'.Sound := by
  intro i
  refine ⟨fun announced => kept.pending i ((h i).1 (kept.announced i ▸ announced)), fun low => ?_⟩
  have other {src : SourceId} (high : 3 < src.val) : i ≠ src := fun same => by
    rw [same] at low; omega
  rw [kept.others i (other (by decide)) (other (by decide)) (other (by decide))]
  exact (h i).2 low

theorem NoticeControl.sound_restarted : NoticeControl.restarted.Sound := by
  unfold NoticeControl.Sound NoticeSource.Sound
  decide

/-! ## The road -/

/-- NoticeLaw, of the road alone. -/
def Road.NoticesSound (r : Road) : Prop := r.notices.Sound

theorem Road.NoticesSound.kept {r r' : Road} (h : r.NoticesSound) (kept : Road.Kept r r') : r'.NoticesSound :=
  NoticeControl.Sound.kept h kept.notices

theorem Road.NoticesSound.handedBack {r r' : Road} (h : r.NoticesSound) (back : Road.HandedBack r r') : r'.NoticesSound :=
  NoticeControl.Sound.kept h back.notices

/-- An edit that leaves the notices as they are, and what is kept after it. -/
theorem Road.NoticesSound.after {r r' r'' : Road} (h : r.NoticesSound) (kept : Road.Kept r' r'') (same : r'.notices = r.notices) :
    r''.NoticesSound := by
  refine NoticeControl.Sound.kept ?_ kept.notices
  rw [same]
  exact h

theorem Road.NoticesSound.of_notices {r r' : Road} (h : r.NoticesSound) (same : r'.notices = r.notices) : r'.NoticesSound := by
  unfold Road.NoticesSound
  rw [same]
  exact h

theorem Road.NoticesSound.raise {r : Road} (h : r.NoticesSound) {src : SourceId} {u : BitVec 64}
    (subjects : src.val ≤ 3 → u = 0) : (r.raise src u).NoticesSound :=
  NoticeControl.Sound.raise h subjects

theorem Road.NoticesSound.raiseAll {r : Road} (h : r.NoticesSound) {src : SourceId} (high : 3 < src.val) (ks : List Nat) :
    (r.raiseAll src ks).NoticesSound := by
  unfold Road.raiseAll
  split
  · exact h
  · exact h.raise fun low => absurd low (by omega)

theorem Road.NoticesSound.roadPulse {r : Road} (h : r.NoticesSound) (m : MarkerId) (time : Half) :
    (roadPulse m time r).NoticesSound := by
  obtain ⟨released, fs, ss, kept⟩ := roadPulse_road m time r
  have counted : Road.NoticesSound { r with sections := r.pulsed m time } := h.of_notices rfl
  have left := counted.kept (kept_leaveHolder released _)
  exact ((left.raiseAll (by decide) fs).raiseAll (by decide) ss).kept kept

/-- Of the road requests only those of the notice controller reach a source except by a raise of the road's own. -/
theorem noticesSound_roadAnswer {body : List Byte} {p : Part} (h : p.road.NoticesSound) :
    ∀ f ∈ roadAnswers body, (f p).1.road.NoticesSound := by
  intro f hf
  simp only [roadAnswers, List.mem_cons, List.not_mem_nil, or_false] at hf
  rcases hf with rfl | rfl | rfl | rfl | rfl | rfl | rfl | rfl | rfl | rfl | rfl | rfl | rfl | rfl | rfl | rfl | rfl
  · obtain ⟨r, e, rfl | ⟨i, d, rfl⟩⟩ := answerSdef_road body p
    · rw [e]; exact h
    · rw [e]; exact h.of_notices rfl
  · obtain ⟨r, e, rfl | ⟨i, back⟩⟩ := answerSout_road body p
    · rw [e]; exact h
    · rw [e]; exact Road.NoticesSound.handedBack (r := p.road.setSect i _) h back
  · obtain ⟨r, e, rfl | ⟨i, kept⟩ | ⟨i, _, _, _, _, _, _, _, kept⟩⟩ := answerSrst_road body p
    · rw [e]; exact h
    · rw [e]; exact h.after kept rfl
    · rw [e]; exact h.after kept rfl
  · obtain ⟨r, e, rfl | ⟨f, d, -, -, kept⟩⟩ := answerFcv_road body p
    · rw [e]; exact h
    · rw [e]; exact h.after kept rfl
  · obtain ⟨r, e, rfl | ⟨c, q, q', asked, left, vacated⟩⟩ := answerDcv_road body p
    · rw [e]; exact h
    · have disbanded : ((q.heldSections c).foldl (fun r i => disbandSection i r) q).NoticesSound :=
        foldl_keeps _ q (fun _ _ _ sound => sound.of_notices rfl) (h.kept asked)
      rw [e]; exact (disbanded.kept left).after vacated rfl
  · obtain ⟨r, e, rfl | ⟨c, i, g, steps, -, -, rfl⟩⟩ := answerLrt_road body p
    · rw [e]; exact h
    · rw [e]
      unfold loadRoute
      dsimp only
      split
      · exact h.of_notices rfl
      · split <;> exact h.of_notices rfl
  · obtain ⟨r, e, kept⟩ := answerRun_road body p
    rw [e]; exact h.kept kept
  · obtain ⟨r, e, back⟩ := answerStp_road body p
    rw [e]; exact h.handedBack back
  · obtain ⟨r, e, rfl | ⟨c, q, kept⟩⟩ := answerTcv_road body p
    · rw [e]; exact h
    · rw [e]; exact h.after kept rfl
  · obtain ⟨r, e, rfl | ⟨c, n, rfl⟩⟩ := answerSpd_road body p
    · rw [e]; exact h
    · rw [e]; exact h.of_notices rfl
  · obtain ⟨r, e, rfl | ⟨c, n, a, l, m, kept⟩⟩ := answerShl_road body p
    · rw [e]; exact h
    · rw [e]; exact h.after kept rfl
  · obtain ⟨r, e, kept⟩ := answerHlt_road body p
    rw [e]; exact h.kept kept
  · obtain ⟨r, e, kept⟩ := answerRsm_road body p
    rw [e]; exact h.kept kept
  · obtain ⟨r, e, rfl | ⟨l, v, rfl⟩⟩ := answerWln_road body p
    · rw [e]; exact h
    · rw [e]; exact h.of_notices rfl
  · obtain ⟨srcs, e | e⟩ := answerEnn_road body p
    · rw [e]; exact h
    · rw [e]; exact NoticeControl.Sound.eachOf h srcs fun _ _ sound => sound
  · obtain ⟨srcs, e | e⟩ := answerDsn_road body p
    · rw [e]; exact h
    · rw [e]; exact NoticeControl.Sound.eachOf h srcs fun _ _ sound => sound
  · obtain ⟨es, e | e⟩ := answerPrn_road body p
    · rw [e]; exact h
    · rw [e]; exact NoticeControl.Sound.prioritised h es

/-! ## The part -/

theorem Part.noticesSound_changeMode {p : Part} (h : p.road.NoticesSound) (m : Mode) : (changeMode m p).road.NoticesSound :=
  Road.NoticesSound.raise h fun _ => rfl

theorem Part.noticesSound_wakeTrigger {p : Part} (h : p.road.NoticesSound) : (wakeTrigger p).road.NoticesSound := by
  obtain e | ⟨-, e⟩ := wakeTrigger_cases p
  · rw [e]; exact h
  · rw [e]; exact Road.NoticesSound.raise (Part.noticesSound_changeMode h .hold) fun _ => rfl

theorem Part.noticesSound_resumeTrigger {p : Part} (h : p.road.NoticesSound) : (resumeTrigger p).road.NoticesSound := by
  obtain e | ⟨-, e⟩ := resumeTrigger_cases p
  · rw [e]; exact h
  · rw [e]; exact Part.noticesSound_changeMode h .run

theorem Part.noticesSound_holdTrigger {p : Part} (h : p.road.NoticesSound) : (holdTrigger p).road.NoticesSound := by
  obtain e | e := holdTrigger_cases p
  · rw [e]; exact h
  · rw [e]; exact Part.noticesSound_changeMode h .hold

theorem Part.noticesSound_reviewHalts {p : Part} (h : p.road.NoticesSound) : p.reviewHalts.road.NoticesSound := by
  rw [Part.reviewHalts_road]
  exact h.kept (kept_reviewHalts _ _ _)

theorem Part.noticesSound_offerRise {q : Part} (l : LineId) (p : Part) (h : q.road.NoticesSound) :
    (offerRise l p q).road.NoticesSound := by
  obtain e | e := offerRise_cases l p q
  · rw [e]; exact h
  · rw [e]; exact Part.noticesSound_wakeTrigger h

theorem Part.noticesSound_fireDeparture (i : DepartureId) {p : Part} (h : p.road.NoticesSound) :
    (fireDeparture i p).road.NoticesSound :=
  fireDeparture_keeps (P := fun p => p.road.NoticesSound) i p
    (fun _ sound => sound.raise fun low => absurd low (by decide))
    (fun c e q sound => by
      rw [depart_part]
      dsimp only
      have tuned : (q.road.updConvoy c (Convoy.underTimetable e.cruise e.ramp)).NoticesSound := sound.of_notices rfl
      exact tuned.kept ((kept_startConvoy c _).trans (kept_reviewHalts _ _ _)))
    (fun _ sound => sound.raise fun low => absurd low (by decide))
    (fun _ sound => Part.noticesSound_wakeTrigger sound) (fun _ sound => Part.noticesSound_resumeTrigger sound) h

theorem Part.noticesSound_minuteChange {p : Part} (h : p.road.NoticesSound) : (minuteChange p).road.NoticesSound :=
  minuteChange_keeps (P := fun p => p.road.NoticesSound) p (fun _ _ sound => sound)
    (fun i _ sound => Part.noticesSound_fireDeparture i sound) h

theorem edgeNotice_noticesSound (before after : Table Cell 8) (k : CellId) {r : Road} (h : r.NoticesSound) :
    (edgeNotice before after k r).NoticesSound := by
  have raised : (r.raise (srcCellEdge k) (subject k.val)).NoticesSound :=
    h.raise fun low => by simp only [srcCellEdge] at low; omega
  unfold edgeNotice
  split
  · split
    · exact raised
    · exact h
  · split
    · exact raised
    · exact h
  · exact h

theorem scanRoad_noticesSound {p : Part} (h : p.road.NoticesSound) : (scanRoad p).NoticesSound :=
  foldl_keeps _ _ (fun _ k _ sound => edgeNotice_noticesSound _ _ k sound)
    (h.of_notices (r' := p.road.mapLines _) rfl)

theorem Part.noticesSound_answer {body : List Byte} {p : Part} (h : p.road.NoticesSound) :
    ∀ f ∈ partAnswers body, (f p).1.road.NoticesSound := by
  refine partAnswers_keep (P := fun p => p.road.NoticesSound) h (noticesSound_roadAnswer h) (fun f hf => ?slot)
    fun f hf => ?others
  case slot =>
    obtain ⟨k, e, -⟩ := slotAnswer_part hf p
    rw [e]; exact h
  case others =>
    simp only [List.mem_cons, List.not_mem_nil, or_false] at hf
    rcases hf with rfl | rfl | rfl | rfl | rfl | rfl | rfl | rfl | rfl | rfl | rfl
    · obtain ⟨k, e⟩ := answerSmk_part body p; rw [e]; exact h
    · obtain ⟨k, e⟩ := answerScl_part body p; rw [e]; exact h
    · obtain ⟨t, r, e, -, same | ⟨u, raised⟩⟩ := answerSsl_part body p
      · rw [e, same]; exact h
      · rw [e, raised]; exact h.raise fun low => absurd low (by decide)
    · obtain e | ⟨l, v, e | e⟩ := answerSln_part body p
      · rw [e]; exact h
      · rw [e]; exact h
      · rw [e]; exact Part.noticesSound_wakeTrigger (p := p.setLine l v) h
    · obtain ⟨k, e⟩ := answerSck_part body p; rw [e]; exact h
    · obtain ⟨b, e⟩ := answerRck_part body p; rw [e]; exact h
    · obtain e | e | e := answerAdj_part body p
      · rw [e]; exact h
      · rw [e]; exact h
      · rw [e]; exact Part.noticesSound_minuteChange h
    · obtain ⟨t, e⟩ := answerSdp_part body p; rw [e]; exact h
    · obtain e | e | ⟨m, -, e⟩ := answerMod_part body p
      · rw [e]; exact h
      · rw [e]; exact Road.NoticesSound.raise (r := p.road.mapLines _) h fun _ => rfl
      · rw [e]; exact Part.noticesSound_changeMode h m
    · obtain ⟨k, e, -⟩ := answerSmo_part body p; rw [e]; exact h
    · obtain e | ⟨-, e⟩ := answerPrl_part body p <;> rw [e] <;> exact h

theorem noticesSound_partLaw : PartLaw fun p => p.road.NoticesSound where
  answer := fun _ _ hf _ h => Part.noticesSound_answer h _ hf
  cleared := fun srcs _ h => by
    refine NoticeControl.Sound.eachOf h srcs fun i n _ => ⟨fun announced => ?_, fun _ => rfl⟩
    simp [NoticeSource.cleared] at announced
  announced := fun _ _ chosen h => NoticeControl.Sound.announce h chosen
  linkError := fun _ h => Road.NoticesSound.raise h fun _ => rfl
  boardReport := fun b l p h => by
    refine boardReport_keeps (P := fun p => p.road.NoticesSound) (fun m b p h => ?_) b l p h
    obtain ⟨k, e | e⟩ := markerLevel_part m b p
    · rw [e]; exact h
    · rw [e]
      dsimp only
      exact (Road.NoticesSound.roadPulse h m _).kept (kept_reviewHalts _ _ _)
  holdOffExpiry := fun _ _ h => h
  markerTimeTick := fun _ h => h
  settleTimerExpiry := fun i p h => by
    obtain ⟨r, e, kept⟩ := settleTimerExpiry_part i p
    rw [e]; exact Road.NoticesSound.kept h kept
  handsetUpdate := fun d b u p h => by
    obtain ⟨k, r, kept, e | e⟩ := handsetUpdate_part d b u p
    · rw [e]; exact Road.NoticesSound.kept h kept
    · rw [e]; exact Part.noticesSound_wakeTrigger (Road.NoticesSound.kept h kept)
  lostTimerExpiry := fun d p h => by
    obtain e | ⟨r, kept, e⟩ := lostTimerExpiry_part d p
    · rw [e]; exact h
    · rw [e]; exact (Road.NoticesSound.raise h fun low => absurd low (by decide)).kept kept
  cellScan := fun p h => by
    obtain ⟨q, hq, e⟩ := cellScan_part p
    have scanned : q.road.NoticesSound := by rw [hq]; exact scanRoad_noticesSound h
    obtain e | ⟨-, e⟩ := e
    · rw [e]; exact Part.noticesSound_reviewHalts scanned
    · rw [e]; exact Part.noticesSound_reviewHalts (Part.noticesSound_holdTrigger scanned)
  oneShotExpiry := fun _ _ h => h
  frameStart := fun p h => by
    unfold frameStart
    refine Road.NoticesSound.raiseAll ?_ (by decide) _
    exact h
  linePinChange := fun l v p h => Part.noticesSound_offerRise (q := p.setLine l _) l p h
  wire := fun _ _ _ h => h
  flashToggle := fun _ _ h => h
  scaleSecond := fun p h => by
    unfold scaleSecond
    split
    · dsimp only
      split
      · exact Part.noticesSound_minuteChange h
      · exact h
    · exact h
  discarded := fun _ h => h
  afterReset := fun cause pins p _ => by
    unfold Road.NoticesSound
    rw [afterReset_notices]
    exact NoticeControl.sound_restarted
  aged := fun _ h => h

/-- Settles O6: only a choice of the transmitter sets announced, and it chooses a pending source; CLN clears both marks; and the
sources 0 to 3 are raised with no subject. -/
theorem announcedSourcesArePending : Obligations.AnnouncedSourcesArePending :=
  fun _ _ law ran => noticesSound_partLaw.step law ran

end Sys2Proof.Machine
end

section
/-! The passage counts stay in range, and a VACANT convoy has no members (R8, R52). -/

namespace Sys2Proof.Machine

/-! ## The law, of the road alone -/

/-- The counts of a holding, for a holder of `members` members. -/
def Holding.InRange (members : Nat) (g : Holding) : Prop := g.exited ≤ g.entered ∧ g.entered ≤ members

structure Road.CountsInRange (r : Road) : Prop where
  held : ∀ i g, (r.sect i).status.holding = some g → g.InRange (r.convoy g.convoy).memberCount
  vacant : ∀ c, (r.convoy c).state.formed = false → (r.convoy c).memberCount = 0

theorem countLaw_iff (s : State) : CountLaw s ↔ s.part.road.CountsInRange := by
  constructor
  · rintro ⟨held, vacant⟩
    exact ⟨held, fun c unformed => by rw [Convoy.memberCount, vacant c unformed]; rfl⟩
  · rintro ⟨held, vacant⟩
    exact ⟨held, fun c unformed => List.eq_nil_of_length_eq_zero (vacant c unformed)⟩

/-- A change that leaves every convoy formed or not and as large as it was, and every section with its holding, with one in range or
with none. -/
theorem Road.CountsInRange.of_holdings {r r' : Road} (h : r.CountsInRange)
    (formed : ∀ c, (r'.convoy c).state.formed = (r.convoy c).state.formed)
    (members : ∀ c, (r'.convoy c).memberCount = (r.convoy c).memberCount)
    (holdings : ∀ i g, (r'.sect i).status.holding = some g →
      (r.sect i).status.holding = some g ∨ g.InRange (r.convoy g.convoy).memberCount) : r'.CountsInRange where
  held := fun i g e => by
    rw [members]
    exact (holdings i g e).elim (h.held i g) id
  vacant := fun c unformed => by
    rw [members]
    exact h.vacant c (formed c ▸ unformed)

theorem Road.CountsInRange.of_eq {r r' : Road} (h : r.CountsInRange) (convoys : r'.convoys = r.convoys)
    (sections : r'.sections = r.sections) : r'.CountsInRange := by
  refine h.of_holdings (fun c => ?_) (fun c => ?_) fun i g e => Or.inl ?_
  · rw [Road.convoy, Road.convoy, convoys]
  · rw [Road.convoy, Road.convoy, convoys]
  · rwa [Road.sect, sections] at e

theorem Holding.inRange_zero {g : Holding} (entered : g.entered = 0) (exited : g.exited = 0) (n : Nat) : g.InRange n := by
  unfold Holding.InRange
  omega

theorem Road.CountsInRange.handedBack {r r' : Road} (h : r.CountsInRange) (back : Road.HandedBack r r') : r'.CountsInRange :=
  h.of_holdings (fun c => (back.convoys c).formed) (fun c => (back.convoys c).memberCount) fun i g e =>
    ((back.sections i).counts g e).imp id fun zero => Holding.inRange_zero zero.1 zero.2 _

theorem Road.CountsInRange.kept {r r' : Road} (h : r.CountsInRange) (kept : Road.Kept r r') : r'.CountsInRange :=
  h.handedBack kept.handedBack

theorem Road.CountsInRange.setSect {r : Road} (h : r.CountsInRange) (i : SectionId) {v : Section}
    (holding : ∀ g, v.status.holding = some g → g.InRange (r.convoy g.convoy).memberCount) : (r.setSect i v).CountsInRange :=
  h.of_holdings (fun _ => rfl) (fun _ => rfl) fun k g e => by
    rw [Road.sect_setSect] at e
    split at e
    · exact Or.inr (holding g e)
    · exact Or.inl e

theorem Road.CountsInRange.setSect_none {r : Road} (h : r.CountsInRange) (i : SectionId) {v : Section}
    (holding : v.status.holding = none) : (r.setSect i v).CountsInRange :=
  h.setSect i fun g e => by rw [holding] at e; cases e

theorem Road.CountsInRange.updConvoy {r : Road} (h : r.CountsInRange) (c : ConvoyId) {f : Convoy → Convoy}
    (formed : (f (r.convoy c)).state.formed = (r.convoy c).state.formed)
    (members : (f (r.convoy c)).memberCount = (r.convoy c).memberCount) : (r.updConvoy c f).CountsInRange := by
  refine h.of_holdings (fun k => ?_) (fun k => ?_) fun _ _ e => Or.inl e
  all_goals
    rw [Road.convoy_updConvoy]
    split
    next same => subst same; assumption
    next => rfl

theorem Road.CountsInRange.mapSections {r : Road} (h : r.CountsInRange) {f : Fin 64 → Section → Section}
    (same : ∀ i v, (f i v).status = v.status) {r' : Road} (sections : r'.sections = Table.mapAll f r.sections)
    (convoys : r'.convoys = r.convoys) : r'.CountsInRange := by
  refine h.of_holdings (fun c => ?_) (fun c => ?_) fun i g e => Or.inl ?_
  · rw [Road.convoy, Road.convoy, convoys]
  · rw [Road.convoy, Road.convoy, convoys]
  · rwa [Road.sect, sections, Table.at_mapAll, same] at e

/-! ## Edits of the road -/

theorem Section.define_holding (d : SectionDef) (v : Section) : (v.define d).status.holding = v.status.holding := by
  unfold Section.define
  dsimp only
  split
  next undefined => rw [undefined]; rfl
  next => rfl

theorem Holding.restoredStatus_inRange {members entered exited : Nat} (exits : exited ≤ entered) (entries : entered ≤ members)
    (h : Holding) {g : Holding} (e : (h.restoredStatus entered exited).holding = some g) :
    g.convoy = h.convoy ∧ g.InRange members := by
  unfold Holding.restoredStatus at e
  dsimp only at e
  split at e <;> (cases e; exact ⟨rfl, exits, entries⟩)

/-- R54: the convoy was VACANT, so nothing counts more members than none of it. -/
theorem Road.CountsInRange.formed {r : Road} (h : r.CountsInRange) (f : Formation) (b : Branch)
    (vacant : (r.convoy f.convoy).state.formed = false) :
    ((r.updConvoy f.convoy (Convoy.form f b)).setSect f.home ((r.sect f.home).home f)).CountsInRange := by
  have size : (Convoy.form f b (r.convoy f.convoy)).memberCount = f.members.length := rfl
  have formedAs : (Convoy.form f b (r.convoy f.convoy)).state.formed = true := rfl
  constructor
  case held =>
    intro i g e
    rw [Road.convoy_setSect, Road.convoy_updConvoy]
    rw [Road.sect_setSect] at e
    split at e
    · cases e
      simp [size, Holding.InRange]
    · have before := h.held i g e
      split
      next same =>
        rw [same, h.vacant _ vacant] at before
        exact ⟨before.1, before.2.trans (Nat.zero_le _)⟩
      next => exact before
  case vacant =>
    intro c unformed
    rw [Road.convoy_setSect, Road.convoy_updConvoy] at unformed ⊢
    split at unformed
    · rw [formedAs] at unformed; cases unformed
    next other => rw [if_neg other]; exact h.vacant c unformed

theorem disbandSections_eq (secs : List SectionId) (r : Road) :
    secs.foldl (fun r i => disbandSection i r) r
      = { r with sections := Table.mapAll (fun i w => if i ∈ secs then { w with status := .out .disbanded } else w) r.sections } := by
  induction secs generalizing r with
  | nil =>
    have same : Table.mapAll (fun _ w => w) r.sections = r.sections := Table.ext fun i => Table.at_mapAll _ _ i
    simp only [List.foldl_nil, List.not_mem_nil, if_false, same]
  | cons i secs ih =>
    rw [List.foldl_cons, ih]
    unfold disbandSection
    simp only [Road.setSect]
    congr 1
    apply Table.ext
    intro k
    simp only [Table.at_mapAll, Table.at_put, List.mem_cons, Road.sect]
    by_cases same : k = i <;> by_cases listed : k ∈ secs <;> simp_all

/-- R46, R55: every section the convoy held is OUT before it is VACANT, and one granted since counts nothing. -/
theorem Road.CountsInRange.disbanded {q q' : Road} (h : q.CountsInRange) {c : ConvoyId}
    (left : Road.Kept ((q.heldSections c).foldl (fun r i => disbandSection i r) q) q') :
    (q'.setConvoy c Convoy.vacant).CountsInRange := by
  rw [disbandSections_eq] at left
  have before (i : SectionId) (g : Holding) (e : (q'.sect i).status.holding = some g) :
      ((q.sect i).status.holding = some g ∧ g.convoy ≠ c) ∨ (g.entered = 0 ∧ g.exited = 0) := by
    obtain same | zero := (left.sections i).counts g e
    · simp only [Road.sect, Table.at_mapAll] at same
      split at same
      · cases same
      next unheld =>
        refine Or.inl ⟨same, fun byC => unheld ?_⟩
        rw [Road.heldSections, Table.mem_numbers, Section.heldBy, same]
        exact decide_eq_true byC
    · exact Or.inr zero
  constructor
  case held =>
    intro i g e
    obtain ⟨same, other⟩ | ⟨entered, exited⟩ := before i g e
    · rw [Road.convoy_setConvoy_other _ _ _ other, (left.convoys _).memberCount]
      exact h.held i g same
    · exact Holding.inRange_zero entered exited _
  case vacant =>
    intro k unformed
    rw [Road.convoy_setConvoy] at unformed ⊢
    split at unformed
    · rw [if_pos (by assumption)]; rfl
    next other =>
      rw [if_neg other, (left.convoys k).memberCount]
      exact h.vacant k ((left.convoys k).formed ▸ unformed)

theorem Road.standsIn_spec {r : Road} {c : ConvoyId} {i : SectionId} {g : Holding} (h : r.standsIn c = some (i, g)) :
    (r.sect i).status = .occupied g ∧ ((r.convoy c).state = .plain .standing ∨ (r.convoy c).state = .plain .arrived) := by
  unfold Road.standsIn at h
  dsimp only at h
  split at h
  next stands =>
    simp only [Bool.and_eq_true, Bool.or_eq_true, decide_eq_true_eq] at stands
    split at h
    · split at h
      next occupied =>
        split at h
        · cases h; exact ⟨occupied, stands.1⟩
        · cases h
      · cases h
    · cases h
  · cases h

theorem Road.CountsInRange.loadRoute {r : Road} (h : r.CountsInRange) {c : ConvoyId} {i : SectionId} {g : Holding}
    (stands : r.standsIn c = some (i, g)) (steps : List RouteStep) : (loadRoute c i g steps r).CountsInRange := by
  obtain ⟨occupied, state⟩ := Road.standsIn_spec stands
  have formed : (r.convoy c).state.formed = true := by obtain e | e := state <;> rw [e] <;> rfl
  have rerouted : (r.updConvoy c (Convoy.rerouted steps)).CountsInRange := h.updConvoy c formed.symm rfl
  have inRange : g.InRange (r.convoy g.convoy).memberCount := h.held i g (by rw [occupied]; rfl)
  have size (k : ConvoyId) : ((r.updConvoy c (Convoy.rerouted steps)).convoy k).memberCount = (r.convoy k).memberCount := by
    rw [Road.convoy_updConvoy]
    split
    next same => rw [same]; rfl
    next => rfl
  unfold Machine.loadRoute
  dsimp only
  split
  · exact rerouted
  · split
    · exact rerouted
    · refine (rerouted.setSect i fun k e => ?_).updConvoy c rfl (by simp [Convoy.flipped, Convoy.refilled, Convoy.memberCount])
      cases e
      rw [size]
      exact inRange

theorem Convoy.tuned_memberCount (q : TcvReq) (v : Convoy) : (v.tuned q).memberCount = v.memberCount := by
  unfold Convoy.tuned
  dsimp only
  split <;> rfl

theorem Convoy.tuned_formed (q : TcvReq) (v : Convoy) : (v.tuned q).state = v.state := by
  unfold Convoy.tuned
  dsimp only
  split <;> rfl

/-! ## A pulse -/

theorem Holding.InRange.countIn {members : Nat} {g k : Holding} (h : g.InRange members) (time : Half)
    (e : (g.countIn members time).holding = some k) : k.convoy = g.convoy ∧ k.InRange members := by
  unfold Holding.InRange at *
  unfold Holding.countIn at e
  split at e
  · cases e
    exact ⟨rfl, by dsimp only; omega⟩
  · cases e
    exact ⟨rfl, h⟩

theorem Holding.InRange.countOut {members : Nat} {g k : Holding} (h : g.InRange members) (was : SectionStatus)
    (e : (g.countOut members was).holding = some k) : k.convoy = g.convoy ∧ k.InRange members := by
  unfold Holding.InRange at *
  unfold Holding.countOut at e
  split at e
  · split at e
    · cases e
    · split at e <;> (cases e; exact ⟨rfl, by dsimp only; omega⟩)
  · cases e
    exact ⟨rfl, h⟩

theorem SectionStatus.holding_of_inService {s : SectionStatus} {g : Holding} (h : s.inService = some g) : s.holding = some g := by
  cases s with
  | granted => exact h
  | occupied => exact h
  | _ => cases h

theorem Section.counted_inRange {members : Nat} {m : MarkerId} {time : Half} {v : Section} {k : Holding}
    (h : ∀ g, v.status.holding = some g → g.InRange members) (e : (v.counted members m time).holding = some k) :
    v.status.holding = some k ∨ ∃ g, v.status.holding = some g ∧ k.convoy = g.convoy ∧ k.InRange members := by
  unfold Section.counted at e
  split at e
  next g d inService _ =>
    have holds := SectionStatus.holding_of_inService inService
    split at e
    · exact Or.inr ⟨g, holds, (h g holds).countIn time e⟩
    · split at e
      · exact Or.inr ⟨g, holds, (h g holds).countOut v.status e⟩
      · exact Or.inl e
  next => exact Or.inl e

theorem Road.CountsInRange.pulsed {r : Road} (h : r.CountsInRange) (m : MarkerId) (time : Half) :
    Road.CountsInRange { r with sections := r.pulsed m time } := by
  refine h.of_holdings (fun _ => rfl) (fun _ => rfl) fun i k e => ?_
  simp only [Road.sect, Road.pulsed, Table.at_mapAll] at e
  have before : ∀ g, (r.sect i).status.holding = some g → g.InRange (r.holderMembers (r.sect i)) := fun g holds => by
    rw [Road.holderMembers, holds]
    exact h.held i g holds
  unfold Road.pulsedSection at e
  split at e
  · obtain same | ⟨g, holds, convoy, inRange⟩ := Section.counted_inRange before e
    · exact Or.inl same
    · rw [Road.holderMembers, holds] at inRange
      exact Or.inr (convoy ▸ inRange)
  · split at e
    · cases e
    · exact Or.inl e

theorem Road.raiseAll_sect (src : SourceId) (ks : List Nat) (r : Road) :
    (r.raiseAll src ks).sections = r.sections ∧ (r.raiseAll src ks).convoys = r.convoys := by
  unfold Road.raiseAll
  split <;> exact ⟨rfl, rfl⟩

theorem Road.CountsInRange.raiseAll {r : Road} (h : r.CountsInRange) (src : SourceId) (ks : List Nat) :
    (r.raiseAll src ks).CountsInRange :=
  h.of_eq (Road.raiseAll_sect src ks r).2 (Road.raiseAll_sect src ks r).1

theorem Road.CountsInRange.roadPulse {r : Road} (h : r.CountsInRange) (m : MarkerId) (time : Half) :
    (roadPulse m time r).CountsInRange := by
  obtain ⟨released, fs, ss, kept⟩ := roadPulse_road m time r
  have left := (h.pulsed m time).kept (kept_leaveHolder released _)
  exact ((left.raiseAll _ fs).raiseAll _ ss).kept kept

/-! ## The operations -/

theorem countsInRange_roadAnswer {body : List Byte} {p : Part} (h : p.road.CountsInRange) :
    ∀ f ∈ roadAnswers body, (f p).1.road.CountsInRange := by
  intro f hf
  simp only [roadAnswers, List.mem_cons, List.not_mem_nil, or_false] at hf
  rcases hf with rfl | rfl | rfl | rfl | rfl | rfl | rfl | rfl | rfl | rfl | rfl | rfl | rfl | rfl | rfl | rfl | rfl
  · obtain ⟨r, e, rfl | ⟨i, d, rfl⟩⟩ := answerSdef_road body p
    · rw [e]; exact h
    · rw [e]; exact h.setSect i fun g holds => h.held i g (Section.define_holding d _ ▸ holds)
  · obtain ⟨r, e, rfl | ⟨i, back⟩⟩ := answerSout_road body p
    · rw [e]; exact h
    · rw [e]; exact (h.setSect_none i rfl).handedBack back
  · obtain ⟨r, e, rfl | ⟨i, kept⟩ | ⟨i, _, g, entered, exited, fault, exits, entries, kept⟩⟩ := answerSrst_road body p
    · rw [e]; exact h
    · rw [e]
      have freed : (freeSection i p.road).CountsInRange := h.setSect_none i rfl
      exact freed.kept kept
    · rw [e]
      refine Road.CountsInRange.kept (h.setSect i fun k holds => ?_) kept
      obtain ⟨convoy, inRange⟩ := Holding.restoredStatus_inRange exits entries g holds
      rwa [convoy]
  · obtain ⟨r, e, rfl | ⟨f, d, vacant, -, kept⟩⟩ := answerFcv_road body p
    · rw [e]; exact h
    · rw [e]; exact (h.formed f _ vacant).kept kept
  · obtain ⟨r, e, rfl | ⟨c, q, q', asked, left, vacated⟩⟩ := answerDcv_road body p
    · rw [e]; exact h
    · rw [e]; exact ((h.kept asked).disbanded left).kept vacated
  · obtain ⟨r, e, rfl | ⟨c, i, g, steps, stands, -, rfl⟩⟩ := answerLrt_road body p
    · rw [e]; exact h
    · rw [e]; exact h.loadRoute stands steps
  · obtain ⟨r, e, kept⟩ := answerRun_road body p
    rw [e]; exact h.kept kept
  · obtain ⟨r, e, back⟩ := answerStp_road body p
    rw [e]; exact h.handedBack back
  · obtain ⟨r, e, rfl | ⟨c, q, kept⟩⟩ := answerTcv_road body p
    · rw [e]; exact h
    · rw [e]
      have tuned : (p.road.updConvoy c (Convoy.tuned q)).CountsInRange :=
        h.updConvoy c (by rw [Convoy.tuned_formed]) (Convoy.tuned_memberCount q _)
      exact tuned.kept kept
  · obtain ⟨r, e, rfl | ⟨c, n, rfl⟩⟩ := answerSpd_road body p
    · rw [e]; exact h
    · rw [e]
      have sped : (p.road.updConvoy c fun v => { v with hostSpeed := n }).CountsInRange := h.updConvoy c rfl rfl
      exact sped
  · obtain ⟨r, e, rfl | ⟨c, n, a, l, m, kept⟩⟩ := answerShl_road body p
    · rw [e]; exact h
    · rw [e]
      have configured : (p.road.updConvoy c (Convoy.setHalt (HaltRecord.configured n a l m))).CountsInRange :=
        h.updConvoy c rfl rfl
      exact configured.kept kept
  · obtain ⟨r, e, kept⟩ := answerHlt_road body p
    rw [e]; exact h.kept kept
  · obtain ⟨r, e, kept⟩ := answerRsm_road body p
    rw [e]; exact h.kept kept
  · obtain ⟨r, e, rfl | ⟨l, v, rfl⟩⟩ := answerWln_road body p
    · rw [e]; exact h
    · rw [e]; exact h.of_eq rfl rfl
  · obtain ⟨srcs, e | e⟩ := answerEnn_road body p
    · rw [e]; exact h
    · rw [e]; exact h.of_eq rfl rfl
  · obtain ⟨srcs, e | e⟩ := answerDsn_road body p
    · rw [e]; exact h
    · rw [e]; exact h.of_eq rfl rfl
  · obtain ⟨es, e | e⟩ := answerPrn_road body p
    · rw [e]; exact h
    · rw [e]; exact h.of_eq rfl rfl

theorem Part.countsInRange_changeMode {p : Part} (h : p.road.CountsInRange) (m : Mode) : (changeMode m p).road.CountsInRange :=
  h.of_eq rfl rfl

theorem Part.countsInRange_wakeTrigger {p : Part} (h : p.road.CountsInRange) : (wakeTrigger p).road.CountsInRange := by
  obtain e | ⟨-, e⟩ := wakeTrigger_cases p
  · rw [e]; exact h
  · rw [e]; exact h.of_eq rfl rfl

theorem Part.countsInRange_resumeTrigger {p : Part} (h : p.road.CountsInRange) : (resumeTrigger p).road.CountsInRange := by
  obtain e | ⟨-, e⟩ := resumeTrigger_cases p
  · rw [e]; exact h
  · rw [e]; exact h.of_eq rfl rfl

theorem Part.countsInRange_holdTrigger {p : Part} (h : p.road.CountsInRange) : (holdTrigger p).road.CountsInRange := by
  obtain e | e := holdTrigger_cases p
  · rw [e]; exact h
  · rw [e]; exact h.of_eq rfl rfl

theorem Part.countsInRange_reviewHalts {p : Part} (h : p.road.CountsInRange) : p.reviewHalts.road.CountsInRange := by
  rw [Part.reviewHalts_road]
  exact h.kept (kept_reviewHalts _ _ _)

theorem Part.countsInRange_offerRise {q : Part} (l : LineId) (p : Part) (h : q.road.CountsInRange) :
    (offerRise l p q).road.CountsInRange := by
  obtain e | e := offerRise_cases l p q
  · rw [e]; exact h
  · rw [e]; exact Part.countsInRange_wakeTrigger h

theorem Part.countsInRange_fireDeparture (i : DepartureId) {p : Part} (h : p.road.CountsInRange) :
    (fireDeparture i p).road.CountsInRange :=
  fireDeparture_keeps (P := fun p => p.road.CountsInRange) i p (fun _ counts => counts.of_eq rfl rfl)
    (fun c e q counts => by
      rw [depart_part]
      dsimp only
      have tuned : (q.road.updConvoy c (Convoy.underTimetable e.cruise e.ramp)).CountsInRange := counts.updConvoy c rfl rfl
      exact tuned.kept ((kept_startConvoy c _).trans (kept_reviewHalts _ _ _)))
    (fun _ counts => counts.of_eq rfl rfl) (fun _ counts => Part.countsInRange_wakeTrigger counts)
    (fun _ counts => Part.countsInRange_resumeTrigger counts) h

theorem Part.countsInRange_minuteChange {p : Part} (h : p.road.CountsInRange) : (minuteChange p).road.CountsInRange :=
  minuteChange_keeps (P := fun p => p.road.CountsInRange) p (fun _ _ counts => counts)
    (fun i _ counts => Part.countsInRange_fireDeparture i counts) h

theorem edgeNotice_sect (before after : Table Cell 8) (k : CellId) (r : Road) :
    (edgeNotice before after k r).sections = r.sections ∧ (edgeNotice before after k r).convoys = r.convoys := by
  unfold edgeNotice
  split
  · split <;> exact ⟨rfl, rfl⟩
  · split <;> exact ⟨rfl, rfl⟩
  · exact ⟨rfl, rfl⟩

theorem scanRoad_countsInRange {p : Part} (h : p.road.CountsInRange) : (scanRoad p).CountsInRange :=
  foldl_keeps _ _ (fun r k _ counts => counts.of_eq (edgeNotice_sect _ _ k r).2 (edgeNotice_sect _ _ k r).1)
    (h.of_eq (r' := p.road.mapLines _) rfl rfl)

theorem Part.countsInRange_answer {body : List Byte} {p : Part} (h : p.road.CountsInRange) :
    ∀ f ∈ partAnswers body, (f p).1.road.CountsInRange := by
  refine partAnswers_keep (P := fun p => p.road.CountsInRange) h (countsInRange_roadAnswer h) (fun f hf => ?slot)
    fun f hf => ?others
  case slot =>
    obtain ⟨k, e, -⟩ := slotAnswer_part hf p
    rw [e]; exact h
  case others =>
    simp only [List.mem_cons, List.not_mem_nil, or_false] at hf
    rcases hf with rfl | rfl | rfl | rfl | rfl | rfl | rfl | rfl | rfl | rfl | rfl
    · obtain ⟨k, e⟩ := answerSmk_part body p; rw [e]; exact h
    · obtain ⟨k, e⟩ := answerScl_part body p; rw [e]; exact h
    · obtain ⟨t, r, e, -, same | ⟨u, raised⟩⟩ := answerSsl_part body p
      · rw [e, same]; exact h
      · rw [e, raised]; exact h.of_eq rfl rfl
    · obtain e | ⟨l, v, e | e⟩ := answerSln_part body p
      · rw [e]; exact h
      · rw [e]; exact h.of_eq rfl rfl
      · rw [e]; exact Part.countsInRange_wakeTrigger (p := p.setLine l v) (h.of_eq rfl rfl)
    · obtain ⟨k, e⟩ := answerSck_part body p; rw [e]; exact h
    · obtain ⟨b, e⟩ := answerRck_part body p; rw [e]; exact h
    · obtain e | e | e := answerAdj_part body p
      · rw [e]; exact h
      · rw [e]; exact h
      · rw [e]; exact Part.countsInRange_minuteChange h
    · obtain ⟨t, e⟩ := answerSdp_part body p; rw [e]; exact h
    · obtain e | e | ⟨m, -, e⟩ := answerMod_part body p
      · rw [e]; exact h
      · rw [e]; exact h.of_eq rfl rfl
      · rw [e]; exact Part.countsInRange_changeMode h m
    · obtain ⟨k, e, -⟩ := answerSmo_part body p; rw [e]; exact h
    · obtain e | ⟨-, e⟩ := answerPrl_part body p
      · rw [e]; exact h
      · rw [e]; exact h.of_eq rfl rfl

/-- A frame start moves demands and histories, and no convoy's members. -/
theorem Convoy.frame_members (mode : ModeControl) (drivers : DriverPort) (period : Nat) (v : Convoy) :
    (v.frame mode drivers period).1.members = v.members ∧ (v.frame mode drivers period).1.state = v.state := by
  have stepped : (v.stepTimetable period).members = v.members ∧ (v.stepTimetable period).state = v.state := by
    unfold Convoy.stepTimetable
    split <;> exact ⟨rfl, rfl⟩
  unfold Convoy.frame
  dsimp only
  split <;> exact stepped

theorem frameStart_countsInRange {p : Part} (h : p.road.CountsInRange) : (frameStart p).road.CountsInRange := by
  unfold frameStart
  refine Road.CountsInRange.raiseAll ?_ _ _
  have answered (c : ConvoyId) : (Table.at p.answers c).1.members = (p.road.convoy c).members
      ∧ (Table.at p.answers c).1.state = (p.road.convoy c).state := by
    simp only [Part.answers, Table.at_mapAll]
    split
    · exact Convoy.frame_members _ _ _ _
    · exact ⟨rfl, rfl⟩
  refine h.of_holdings (fun c => ?_) (fun c => ?_) fun _ _ e => Or.inl e
  · simp only [Road.convoy, Table.at_mapAll]
    rw [(answered c).2]; rfl
  · simp only [Road.convoy, Table.at_mapAll, Convoy.memberCount]
    rw [(answered c).1]; rfl

theorem countsInRange_afterReset (cause : ResetCause) (pins : Half) (p : Part) :
    (p.afterReset cause pins).road.CountsInRange := by
  have fresh (sections : Table Section 64) (lines : Table Line 16)
      (unheld : ∀ i, (Table.at sections i).status.holding = none) : (Road.fresh sections lines).CountsInRange := by
    refine ⟨fun i g e => ?_, fun c _ => ?_⟩
    · rw [Road.fresh, Road.sect, unheld] at e; cases e
    · simp [Road.fresh, Road.convoy, Convoy.vacant, Convoy.memberCount]
  have after (v : Section) : v.afterReset.status.holding = none := by
    unfold Section.afterReset
    dsimp only
    split <;> rfl
  cases cause with
  | powerOn => exact fresh _ _ fun i => by rw [Table.at_all]; rfl
  | resetLine => exact fresh _ _ fun i => by rw [Table.at_mapAll]; exact after _
  | command => exact fresh _ _ fun i => by rw [Table.at_mapAll]; exact after _

theorem countsInRange_partLaw : PartLaw fun p => p.road.CountsInRange where
  answer := fun _ _ hf _ h => Part.countsInRange_answer h _ hf
  cleared := fun _ _ h => h.of_eq rfl rfl
  announced := fun _ _ _ h => h.of_eq rfl rfl
  linkError := fun _ h => h.of_eq rfl rfl
  boardReport := fun b l p h => by
    refine boardReport_keeps (P := fun p => p.road.CountsInRange) (fun m b p h => ?_) b l p h
    obtain ⟨k, e | e⟩ := markerLevel_part m b p
    · rw [e]; exact h
    · rw [e]
      dsimp only
      exact (h.roadPulse m _).kept (kept_reviewHalts _ _ _)
  holdOffExpiry := fun _ _ h => h
  markerTimeTick := fun _ h => h
  settleTimerExpiry := fun i p h => by
    obtain ⟨r, e, kept⟩ := settleTimerExpiry_part i p
    rw [e]; exact h.kept kept
  handsetUpdate := fun d b u p h => by
    obtain ⟨k, r, kept, e | e⟩ := handsetUpdate_part d b u p
    · rw [e]; exact h.kept kept
    · rw [e]; exact Part.countsInRange_wakeTrigger (h.kept kept)
  lostTimerExpiry := fun d p h => by
    obtain e | ⟨r, kept, e⟩ := lostTimerExpiry_part d p
    · rw [e]; exact h
    · rw [e]
      have raised : (p.road.raise srcDriverLost (subject d.val)).CountsInRange := h.of_eq rfl rfl
      exact raised.kept kept
  cellScan := fun p h => by
    obtain ⟨q, hq, e⟩ := cellScan_part p
    have scanned : q.road.CountsInRange := by rw [hq]; exact scanRoad_countsInRange h
    obtain e | ⟨-, e⟩ := e
    · rw [e]; exact Part.countsInRange_reviewHalts scanned
    · rw [e]; exact Part.countsInRange_reviewHalts (Part.countsInRange_holdTrigger scanned)
  oneShotExpiry := fun _ _ h => h
  frameStart := fun _ h => frameStart_countsInRange h
  linePinChange := fun l v p h => Part.countsInRange_offerRise (q := p.setLine l _) l p (h.of_eq rfl rfl)
  wire := fun _ _ _ h => h.of_eq rfl rfl
  flashToggle := fun _ _ h => h.of_eq rfl rfl
  scaleSecond := fun p h => by
    unfold scaleSecond
    split
    · dsimp only
      split
      · exact Part.countsInRange_minuteChange h
      · exact h
    · exact h
  discarded := fun p h => by
    refine h.of_holdings (fun c => ?_) (fun c => ?_) fun i g e => Or.inl ?_
    · simp [Part.discarded, Road.convoy]
    · simp [Part.discarded, Road.convoy, Convoy.memberCount]
    · simpa [Part.discarded, Road.sect, Section.discarded] using e
  afterReset := fun cause pins p _ => countsInRange_afterReset cause pins p
  aged := fun p h => h.mapSections (f := fun _ v => v.aged) (fun _ _ => rfl) rfl rfl

/-- Settles O7: a count rises only below its bound (R17, R18, R14), and a convoy gains or loses members only while no section counts
them (R54, R55). -/
theorem countsStayInRange : Obligations.CountsStayInRange := by
  intro s t law ran
  rw [countLaw_iff] at law ⊢
  exact countsInRange_partLaw.step law ran

end Sys2Proof.Machine
end

section
/-! The law of the link port (R190 to R194). -/

namespace Sys2Proof.Machine

/-! ## What holds within an event -/

theorem countUp_le {n : Nat} (h : n ≤ 255) : countUp 255 n ≤ 255 := by
  unfold countUp
  split <;> omega

structure LinkPort.CountsInRange (l : LinkPort) : Prop where
  framing : l.framingErrors ≤ 255
  check : l.checkErrors ≤ 255
  overruns : l.overruns ≤ 255

/-- What stands of LinkLaw between the steps of one event: at most four requests wait, an IDLE transmitter whose slot is empty has not
sent RST's reply, and the counts stay in range. -/
structure LinkPort.Serviceable (l : LinkPort) : Prop where
  inbound : l.inbound.length ≤ 4
  notReset : l.tx = .idle → l.slot = none → l.rstTaken = false
  counts : l.CountsInRange

/-- LinkLaw, of the link port alone. -/
structure LinkPort.Lawful (l : LinkPort) : Prop where
  inbound : l.inbound.length ≤ 4
  taken : l.slot = none → l.inbound = [] ∨ l.rstTaken = true
  rests : l.tx = .idle → l.slot = none ∧ l.inbound = [] ∧ l.rstTaken = false
  counts : l.CountsInRange

theorem linkLaw_iff (s : State) : LinkLaw s ↔ s.link.Lawful := by
  constructor
  · rintro ⟨inbound, taken, rests, framing, check, overruns⟩
    exact ⟨inbound, taken, rests, framing, check, overruns⟩
  · rintro ⟨inbound, taken, rests, framing, check, overruns⟩
    exact ⟨inbound, taken, rests, framing, check, overruns⟩

theorem LinkPort.Lawful.serviceable {l : LinkPort} (h : l.Lawful) : l.Serviceable :=
  ⟨h.inbound, fun idle _ => (h.rests idle).2.2, h.counts⟩

/-- A port with a reply in its slot is serviceable whatever it sends. -/
theorem LinkPort.Serviceable.of_slot {l : LinkPort} (inbound : l.inbound.length ≤ 4) (slot : l.slot.isSome = true)
    (counts : l.CountsInRange) : l.Serviceable :=
  ⟨inbound, fun _ none => (by rw [none] at slot; cases slot), counts⟩

/-- A change of the receiver and the counts alone. -/
theorem LinkPort.Serviceable.received {l l' : LinkPort} (h : l.Serviceable) (counts : l'.CountsInRange)
    (same : l' = { l with receiver := l'.receiver, gap := l'.gap, framingErrors := l'.framingErrors,
                          checkErrors := l'.checkErrors, overruns := l'.overruns }) : l'.Serviceable := by
  refine ⟨?_, ?_, counts⟩
  · rw [same]; exact h.inbound
  · rw [same]; exact h.notReset

/-! ## Serving the link -/

theorem handle_counts (r : Request) {s : State} (h : s.link.CountsInRange) : (handle r s).1.link.CountsInRange := by
  obtain e | e | e := handle_link r s
  · rw [e]; exact h
  · rw [e]; exact ⟨Nat.zero_le _, Nat.zero_le _, Nat.zero_le _⟩
  · rw [e]; exact ⟨h.framing, h.check, h.overruns⟩

theorem handle_inbound (r : Request) (s : State) : (handle r s).1.link.inbound = s.link.inbound := by
  obtain e | e | e := handle_link r s <;> (rw [e]; try rfl)

theorem take_serviceable (r : Request) {s : State} (inbound : s.link.inbound.length ≤ 4) (counts : s.link.CountsInRange) :
    (take r s).link.Serviceable := by
  refine LinkPort.Serviceable.of_slot ?_ rfl ?_
  · simpa [take, LinkPort.queueReply, handle_inbound] using inbound
  · obtain ⟨framing, check, overruns⟩ := handle_counts r counts
    exact ⟨framing, check, overruns⟩

theorem transmit_counts {s : State} (h : s.link.CountsInRange) : (transmit s).link.CountsInRange := by
  obtain ⟨framing, check, overruns⟩ := h
  obtain e | ⟨-, f, -, e⟩ | ⟨-, -, i, -, e⟩ := transmit_cases s <;> rw [e] <;> exact ⟨framing, check, overruns⟩

theorem transmit_serviceable {s : State} (h : s.link.Serviceable) : (transmit s).link.Serviceable := by
  refine ⟨by simpa using h.inbound, fun idle empty => ?_, transmit_counts h.counts⟩
  obtain e | ⟨-, f, -, e⟩ | ⟨-, -, i, -, e⟩ := transmit_cases s
  · rw [e] at idle empty ⊢; exact h.notReset idle empty
  · rw [e] at idle; cases idle
  · rw [e] at idle; cases idle

/-- A transmitter that has chosen leaves a lawful port where no waiting request can be taken. -/
theorem LinkPort.Serviceable.lawful_transmit {s : State} (h : s.link.Serviceable)
    (none : (transmit s).link.mayTake = false ∨ (transmit s).link.inbound = []) : (transmit s).link.Lawful := by
  have served := transmit_serviceable h
  refine ⟨served.inbound, fun empty => ?_, fun idle => ?_, served.counts⟩
  · obtain busy | waits := none
    · rw [LinkPort.mayTake, empty] at busy
      exact Or.inr (by simpa using busy)
    · exact Or.inl waits
  · have empty := transmit_idle idle
    have notReset := served.notReset idle empty
    refine ⟨empty, none.resolve_left fun busy => ?_, notReset⟩
    rw [LinkPort.mayTake, empty, notReset] at busy
    cases busy

/-- Each round takes one of the waiting requests, and with none left the law holds again. -/
theorem LinkPort.Serviceable.serve (n : Nat) {s : State} (h : s.link.Serviceable) (fuel : s.link.inbound.length ≤ n) :
    (serve n s).link.Lawful := by
  induction n generalizing s with
  | zero =>
    have empty : s.link.inbound = [] := List.eq_nil_of_length_eq_zero (Nat.le_zero.mp fuel)
    exact h.lawful_transmit (Or.inr (by rw [transmit_inbound, empty]))
  | succ n ih =>
    have served := transmit_serviceable h
    rw [Machine.serve]
    split
    next r rest may waits =>
      rw [← transmit_inbound, waits] at fuel
      refine ih (take_serviceable r ?_ ⟨served.counts.framing, served.counts.check, served.counts.overruns⟩) ?_
      · have := waits ▸ served.inbound
        simp only [List.length_cons] at this
        exact (Nat.le_succ _).trans this
      · simpa [take, LinkPort.queueReply, handle_inbound] using fuel
    next other =>
      refine h.lawful_transmit ?_
      cases may : (transmit s).link.mayTake with
      | false => exact Or.inl rfl
      | true =>
        cases waits : (transmit s).link.inbound with
        | nil => exact Or.inr rfl
        | cons r rest => exact absurd waits (other r rest may)

theorem LinkPort.Serviceable.settle {s : State} (h : s.link.Serviceable) : (settle s).link.Lawful := h.serve _ (le_refl _)

/-! ## The link port's own events -/

theorem offer_serviceable (r : Request) {s : State} (h : s.link.Serviceable) : (offer r s).link.Serviceable := by
  unfold offer
  split
  · exact h
  · split
    · exact take_serviceable r h.inbound h.counts
    · split
      next room =>
        refine ⟨?_, h.notReset, h.counts.framing, h.counts.check, h.counts.overruns⟩
        rw [State.onLink_link, List.length_append]
        exact room
      · exact h.received ⟨h.counts.framing, h.counts.check, countUp_le h.counts.overruns⟩ rfl

theorem abandon_serviceable {s : State} (h : s.link.Serviceable) : (abandon s).link.Serviceable :=
  h.received ⟨countUp_le h.counts.framing, h.counts.check, h.counts.overruns⟩ rfl

theorem receiving_serviceable (v : Receiver) {s : State} (h : s.link.Serviceable) :
    (s.onLink (LinkPort.receiving v)).link.Serviceable :=
  h.received ⟨h.counts.framing, h.counts.check, h.counts.overruns⟩ rfl

theorem huntByte_serviceable (b : Byte) {s : State} (h : s.link.Serviceable) : (huntByte b s).link.Serviceable := by
  unfold huntByte
  split
  · exact receiving_serviceable _ h
  · exact h

theorem completeFrame_serviceable (len : Byte) (bytes : List Byte) {s : State} (h : s.link.Serviceable) :
    (completeFrame len bytes s).link.Serviceable := by
  have hunting : (s.onLink fun l => { l with receiver := .hunt, gap := none }).link.Serviceable :=
    h.received ⟨h.counts.framing, h.counts.check, h.counts.overruns⟩ rfl
  unfold completeFrame
  dsimp only
  split
  · split
    · exact offer_serviceable _ hunting
    · exact hunting
  · exact hunting.received ⟨h.counts.framing, countUp_le h.counts.check, h.counts.overruns⟩ rfl

theorem receiveByte_serviceable (b : LineByte) {s : State} (h : s.link.Serviceable) : (receiveByte b s).link.Serviceable := by
  unfold receiveByte
  split
  · exact h
  · split
    · exact huntByte_serviceable _ h
    · exact h
    · unfold lengthByte
      split
      · exact receiving_serviceable _ h
      · exact huntByte_serviceable _ (abandon_serviceable h)
    · exact abandon_serviceable h
    · unfold bodyByte
      split
      · exact completeFrame_serviceable _ _ h
      · exact receiving_serviceable _ h
    · exact abandon_serviceable h

theorem gapExpiry_serviceable {s : State} (h : s.link.Serviceable) : (gapExpiry s).link.Serviceable := by
  unfold gapExpiry
  split
  · exact h
  · split
    · exact h
    · exact abandon_serviceable h

theorem LinkPort.lawful_discarded {l : LinkPort} (h : l.CountsInRange) : l.discarded.Lawful :=
  ⟨Nat.zero_le _, fun _ => Or.inl rfl, fun _ => ⟨rfl, rfl, rfl⟩, h.framing, h.check, h.overruns⟩

/-- At the end of a message the transmitter is IDLE; RST's own reply ends in a reset. -/
theorem messageSent_lawful {s : State} (h : s.link.Lawful) : (messageSent s).link.Lawful := by
  unfold messageSent
  split
  · exact h
  · split
    · exact LinkPort.lawful_discarded h.counts
    next keeps =>
      refine LinkPort.Serviceable.settle ⟨h.inbound, fun _ empty => ?_, h.counts.framing, h.counts.check, h.counts.overruns⟩
      have empty : s.link.slot = none := empty
      simpa [empty] using keeps

theorem leave_lawful (strap : Strap) (pins : Half) (s : State) : (leave strap pins s).link.Lawful :=
  LinkPort.Serviceable.settle
    ⟨Nat.zero_le _, fun _ _ => rfl, Nat.zero_le _, Nat.zero_le _, Nat.zero_le _⟩

theorem LinkPort.Lawful.aged {l : LinkPort} (h : l.Lawful) : l.aged.Lawful := by
  refine ⟨h.inbound, h.taken, fun idle => h.rests ?_, h.counts.framing, h.counts.check, h.counts.overruns⟩
  cases sends : l.tx with
  | idle => rfl
  | sending f n => rw [LinkPort.aged, sends] at idle; cases idle

/-! ## The step -/

theorem running_lawful {f : State → State} {s t : State} (h : s.link.Lawful) (hf : (f s).link.Lawful)
    (ran : running f s = .next t) : t.link.Lawful := by
  unfold running at ran
  cases ran
  split
  · exact h
  · exact hf

theorem request_lawful {kind tag : Byte} {body : List Byte} {s t : State} (h : s.link.Lawful)
    (ran : request kind tag body s = .next t) : t.link.Lawful := by
  unfold request at ran
  cases ran
  unfold receiveRequest
  split
  · exact h
  · exact (offer_serviceable _ h.serviceable).settle

theorem exec_lawful {c : Instr} {s t : State} (h : s.link.Lawful) (ran : exec c s = .next t) : t.link.Lawful := by
  have ofPart (f : Part → Part) (e : partEvent f s = .next t) : t.link.Lawful :=
    running_lawful h (LinkPort.Serviceable.settle (s := s.onPart f) h.serviceable) e
  have ofQuiet (f : Part → Part) (e : quietEvent f s = .next t) : t.link.Lawful := running_lawful h h e
  have ofLink (f : State → State) (served : (f s).link.Serviceable) (e : linkEvent f s = .next t) : t.link.Lawful :=
    running_lawful h served.settle e
  cases c
  case boardReport => exact ofPart _ ran
  case holdOffExpiry => exact ofQuiet _ ran
  case markerTimeTick => exact ofQuiet _ ran
  case settleTimerExpiry => exact ofPart _ ran
  case handsetUpdate => exact ofPart _ ran
  case lostTimerExpiry => exact ofPart _ ran
  case cellScan => exact ofPart _ ran
  case oneShotExpiry => exact ofQuiet _ ran
  case frameStart => exact ofPart _ ran
  case linePinChange l pin =>
    change execLinePinChange l pin s = .next t at ran
    unfold execLinePinChange at ran
    split at ran
    · cases ran; exact h
    · exact ofPart _ ran
  case flashToggle => exact ofQuiet _ ran
  case scaleSecond => exact ofPart _ ran
  case byteReceived b => exact ofLink _ (receiveByte_serviceable b h.serviceable) ran
  case gapTimerExpiry => exact ofLink _ (gapExpiry_serviceable h.serviceable) ran
  case messageSent => exact running_lawful h (messageSent_lawful h) ran
  case powerOn => cases ran; exact LinkPort.lawful_discarded h.counts
  case resetLine => cases ran; exact LinkPort.lawful_discarded h.counts
  case leaveReset strap pins =>
    cases ran
    unfold leaveReset
    split
    · exact leave_lawful strap pins s
    · exact h
  case supplyBelowOperatingLevel => cases ran; exact LinkPort.lawful_discarded h.counts
  all_goals exact request_lawful h ran

theorem millisecond_lawful {s : State} (h : s.link.Lawful) : (millisecond s).link.Lawful := by
  unfold millisecond
  split
  · exact h
  · exact h.aged

/-- Settles O3: whatever an event does to the port, its end serves the link until the law holds again. -/
theorem linkLawIsKept : Obligations.LinkLawIsKept := by
  intro s t law ran
  rw [linkLaw_iff] at law ⊢
  unfold step at ran
  split at ran
  next c rest _ => exact exec_lawful (s := { s with pending := rest }) law ran
  next =>
    cases ran
    exact millisecond_lawful law

end Sys2Proof.Machine
end

section
/-! The step, the laws at reset, and the resets (R185 to R187, R204, R207). -/

namespace Sys2Proof.Machine

/-- Settles O1: the step is exec at the front of the queue by definition. -/
theorem stepRunsTheFrontCommand : Obligations.StepRunsTheFrontCommand := fun _ _ _ => rfl

/-- Settles O10: the nine bytes shifted through the register. -/
theorem checkOfTheNineDigits : Obligations.CheckOfTheNineDigits := by
  unfold Obligations.CheckOfTheNineDigits
  decide +kernel

/-! ## The laws at reset -/

theorem clockLaw_reset : ClockLaw State.reset := LayoutClock.showsATime_blank

theorem linkLaw_reset : LinkLaw State.reset := by
  unfold LinkLaw
  decide

theorem parkLaw_reset : ParkLaw State.reset := by
  intro held
  cases held

theorem noticeLaw_reset : NoticeLaw State.reset := by
  intro i
  simp only [State.reset]
  revert i
  decide

theorem countLaw_reset : CountLaw State.reset := by
  refine ⟨fun i g holding => ?_, fun c _ => ?_⟩
  · simp [State.reset, Road.sect, Section.blank, SectionStatus.holding] at holding
  · simp [State.reset, Road.convoy, Convoy.vacant]

/-- Settles O8, law by law. -/
theorem lawsHoldAtReset : Obligations.LawsHoldAtReset :=
  ⟨linkLaw_reset, clockLaw_reset, parkLaw_reset, noticeLaw_reset, countLaw_reset⟩

/-! ## Being held (R185) -/

/-- A held part drives no line: its lines are RELEASED and hold no frozen value. -/
theorem Line.pinOut_undriven (hold : Bool) (cells : Table Cell 8) (l : Line) : l.undriven.pinOut hold cells = none := by
  simp [Line.pinOut, Line.undriven, Line.driven]

/-- The work a part discards when it is held, with its lines. -/
theorem Part.discarded_spec (p : Part) :
    p.discarded.road.requests = Table.all none ∧ p.discarded.road.settling = []
      ∧ (∀ i, (p.discarded.road.sect i).settle = none ∧ (p.discarded.road.sect i).defn = (p.road.sect i).defn)
      ∧ ∀ l hold cells, (p.discarded.road.line l).pinOut hold cells = none := by
  refine ⟨rfl, rfl, fun i => ?_, fun l hold cells => ?_⟩
  · simp [Part.discarded, Road.sect, Section.discarded]
  · simp only [Part.discarded, Road.line, Table.at_mapAll]
    exact Line.pinOut_undriven hold cells _

/-- Settles O16: the three resets hold the part in one way, and differ in what they note of the supply and the input. -/
theorem resetsHoldThePart : Obligations.ResetsHoldThePart := by
  intro s
  obtain ⟨requests, settling, sections, lines⟩ := s.part.discarded_spec
  refine ⟨⟨holdPowerOn s, rfl, rfl, rfl, rfl, rfl, rfl, rfl, rfl, requests, settling, sections, fun l => lines l _ _, rfl⟩,
    ⟨holdResetLine s, rfl, rfl, rfl, rfl, rfl, rfl, rfl, rfl, requests, settling, sections, fun l => lines l _ _, fun notRisen => ?_⟩,
    ⟨holdSupplyBelow s, rfl, rfl, rfl, rfl, rfl, rfl, rfl, rfl, requests, settling, sections, fun l => lines l _ _⟩⟩
  simp [holdResetLine, hold, ResetControl.cause, notRisen]

theorem handle_rst (tag : Byte) (s : State) :
    handle { kind := 0x61, tag := tag, body := [] } s = ({ s with link := { s.link with rstTaken := true } }, okReply) := rfl

/-- Settles O15: RST's reply goes out at once over an IDLE transmitter, and the end of its message holds the part. -/
theorem rstResetsAfterItsReply : Obligations.RstResetsAfterItsReply := by
  refine ⟨fun tag s ready => ?taken, fun s f n running taken empty sends => ?sent⟩
  case taken =>
    obtain ⟨-, -, slot, -, -⟩ := id ready
    rw [exec_request rfl, receiveRequest_ready_state ready, handle_rst]
    simp [State.onLink, LinkPort.sendReply, LinkPort.send, lineTime, State.replied, slot]
  case sent =>
    obtain ⟨-, -, -, lines⟩ := s.part.discarded_spec
    have held : exec .messageSent s = .next (holdCommand s) := by
      simp [exec, execMessageSent, Machine.running, running, messageSent, sends, taken, empty]
    refine ⟨holdCommand s, held, rfl, rfl, rfl, rfl, rfl, rfl, fun l => lines l _ _, fun notRisen notAsserted => ?_⟩
    simp [holdCommand, hold, ResetControl.cause, notRisen, notAsserted]

/-! ## While held -/

theorem partEvent_held {s : State} (h : s.resets.held = true) (f : Part → Part) : partEvent f s = .next s := running_held h _

theorem quietEvent_held {s : State} (h : s.resets.held = true) (f : Part → Part) : quietEvent f s = .next s := running_held h _

theorem linkEvent_held {s : State} (h : s.resets.held = true) (f : State → State) : linkEvent f s = .next s := running_held h _

/-- Settles O19: every request and every event but the resets asks first whether the part is held. -/
theorem aHeldPartTakesNothing : Obligations.AHeldPartTakesNothing := by
  intro s
  refine ⟨fun held c isRequest => ?requests, fun held c hc => ?events, fun held b l m i d t u k n v => ?operands,
    fun held l pin => ?wire, fun stays strap pins => ?leaves⟩
  case requests =>
    obtain ⟨r, hr⟩ := Option.isSome_iff_exists.mp isRequest
    rw [exec_request hr, receiveRequest, if_pos held]
  case events =>
    simp only [List.mem_cons, List.not_mem_nil, or_false] at hc
    obtain rfl | rfl | rfl | rfl | rfl | rfl := hc
    · exact quietEvent_held held _
    · exact partEvent_held held _
    · exact partEvent_held held _
    · exact partEvent_held held _
    · exact linkEvent_held held _
    · exact running_held held _
  case operands =>
    exact ⟨partEvent_held held _, quietEvent_held held _, partEvent_held held _, partEvent_held held _, partEvent_held held _,
      quietEvent_held held _, quietEvent_held held _, linkEvent_held held _⟩
  case wire => exact if_pos held
  case leaves =>
    have unmoved : leaveReset strap pins s = s := by
      unfold leaveReset
      obtain h | h := stays <;> simp [h]
    exact congrArg Host.Outcome.next unmoved

/-! ## Leaving a reset -/

theorem leaveReset_of_held {s : State} (held : s.resets.held = true) (up : s.resets.supplyUp = true) (strap : Strap)
    (pins : Half) : exec (.leaveReset strap pins) s = .next (leave strap pins s) := by
  have leaves : leaveReset strap pins s = leave strap pins s := by simp [leaveReset, held, up]
  exact congrArg Host.Outcome.next leaves

theorem pinAt_zero (l : LineId) : pinAt 0 l = .low := by simp [pinAt]

theorem announced_restarted :
    NoticeControl.announce srcRestarted NoticeControl.restarted
      = { sources := Table.put (Table.all (NoticeSource.fresh false)) 0
            { NoticeSource.fresh true with pending := true, announced := true },
          seq := 1 } := by decide

/-- The part of State.reset is that of a POWER_ON reset with every pin LOW, RESTARTED's notice started (log entry 5). -/
theorem powerOn_part : (Part.powerOn 0).onNotices (NoticeControl.announce srcRestarted) = State.reset.part := by
  have lines : Table.mapAll (fun l _ => Line.blank (pinAt 0 l)) (Table.all () : Table Unit 16) = Table.all (Line.blank .low) :=
    Table.ext fun l => by rw [Table.at_mapAll, Table.at_all, pinAt_zero]
  simp only [Part.powerOn, Part.onNotices, Part.onRoad, Road.fresh, announced_restarted, lines]
  rfl

/-- Settles O17: every block's values after POWER_ON are those of State.reset. -/
theorem leavingPowerOnGivesTheResetState : Obligations.LeavingPowerOnGivesTheResetState := by
  intro s held up risen
  have cause : s.resets.cause = .powerOn := by simp [ResetControl.cause, risen]
  rw [leaveReset_of_held held up, leave_eq, cause, Part.afterReset, powerOn_part]
  rfl

/-- Settles O18: the warm reset gives each record, and the start of RESTARTED's notice touches the notices alone. -/
theorem leavingAWarmResetKeepsTheSettings : Obligations.LeavingAWarmResetKeepsTheSettings := by
  intro s strap pins held up notRisen
  have cause : s.resets.cause = if s.resets.lineAsserted then .resetLine else .command := by
    simp [ResetControl.cause, notRisen]
  have warm : s.part.afterReset s.resets.cause pins
      = s.part.warmReset (if s.resets.lineAsserted then .resetLine else .command) pins := by
    rw [cause]
    cases s.resets.lineAsserted <;> rfl
  refine ⟨_, leaveReset_of_held held up strap pins, ?_⟩
  rw [leave_eq, warm]
  generalize s.part = p
  refine ⟨rfl, rfl, by cases strap <;> rfl, rfl, rfl, rfl, fun m => Table.at_all _ m, fun i => ?sections, fun c => Table.at_all _ c,
    rfl, rfl, rfl, fun c => Table.at_all _ c, fun l => ?lines, fun d => Table.at_all _ d, rfl, fun k => ?cells, rfl,
    fun i => ?slots, rfl, rfl, fun e => Table.at_mapAll _ _ e, rfl, fun i => ?notices, rfl⟩
  case sections =>
    simp only [Part.warmReset, Part.onNotices_road, Road.fresh, Road.sect, Table.at_mapAll]
    rfl
  case lines => simp [Part.warmReset, Road.fresh, Road.line, Line.afterReset, Line.undriven, pinAt]
  case cells => simp [Part.warmReset, Cell.afterReset, Cell.cleared]
  case slots =>
    simp only [Part.warmReset, Part.onNotices, Part.onRoad, Composer.fresh, Table.at_mapAll, Slot.afterReset]
    unfold Slot.applied
    split
    next waits => rw [waits, Option.getD_some]
    next none => rw [none, Option.getD_none]
  case notices =>
    simp only [Part.warmReset, Part.onNotices, Part.onRoad, Road.fresh, announced_restarted, Table.at_put, Table.at_all]
    split
    next restarted => subst restarted; rfl
    next other => simp [NoticeSource.fresh, srcRestarted, other]

end Sys2Proof.Machine
end

section
/-! One millisecond of real time on an empty queue (log entry 1). -/

namespace Sys2Proof.Machine

theorem mem_dueIf (b : Bool) (c d : Instr) : c ∈ dueIf b d ↔ b = true ∧ c = d := by
  cases b <;> simp [dueIf]

theorem timerDown_eq (t : Option Nat) : timerDown t = t.map fun n => n - 1 := rfl

theorem Handset.aged_present {h : Handset} {left : Nat} (present : h.presence = .present left) :
    h.aged.presence = .present (left - 1) := by
  simp [Handset.aged, present]

theorem Line.aged_eq (l : Line) :
    l.aged = { l with flash := l.flash.map fun f => { phase := f.phase, left := f.left - 1 } } := by
  unfold Line.aged
  split
  next f runs => rw [runs]; rfl
  next rests => cases l; cases rests; rfl

theorem LayoutClock.aged_eq (k : LayoutClock) :
    k.aged = { k with fraction :=
      if k.running = true ∧ k.fraction + k.ratio < 1000 then k.fraction + k.ratio else k.fraction } := by
  simp only [LayoutClock.aged, Bool.and_eq_true, decide_eq_true_eq]
  split <;> rfl

theorem LinkPort.aged_eq (l : LinkPort) :
    l.aged = { l with
      gap := l.gap.map fun n => n - 1,
      tx := match l.tx, l.rate with
        | .sending f left, .baud57600 => .sending f (left - 576)
        | .sending f left, .baud230400 => .sending f (left - 2304)
        | .idle, _ => .idle } := by
  unfold LinkPort.aged
  cases l.tx with
  | idle => rfl
  | sending f n => cases l.rate <;> rfl

/-- The state a running part is in after a millisecond, but for the queue. -/
def State.aged (s : State) : State := { s with link := s.link.aged, part := s.part.aged }

theorem step_empty {s : State} (empty : s.pending = []) (running : s.resets.held = false) :
    step s = .next { s.aged with pending := dueEvents s s.aged } := by
  simp [step, empty, millisecond, running, State.aged]

theorem waitOver_iff (k : MarkerScanner) (tick : Bool) (m : Marker) :
    k.waitOver tick m = true ↔ m.state = .settling ∧ ∃ since, m.since = some since
      ∧ k.holdOff / 10 ≤ ((if tick = true then k.time + 1 else k.time) - since).toNat := by
  simp only [MarkerScanner.waitOver, Marker.waited, MarkerScanner.units, sinceUnits, Bool.and_eq_true, decide_eq_true_eq]
  refine and_congr_right fun _ => ?_
  cases m.since <;> simp

theorem Handset.due_iff (h : Handset) : h.due = true ↔ h.presence = .present 0 := by simp [Handset.due]

theorem Line.due_iff (l : Line) : l.due = true ↔ ∃ f, l.flash = some f ∧ f.left = 0 := by
  unfold Line.due
  cases l.flash <;> simp

theorem LinkPort.messageDue_iff (l : LinkPort) : l.messageDue = true ↔ ∃ f, l.tx = .sending f 0 := by
  unfold LinkPort.messageDue
  cases l.tx <;> simp

/-- Settles O2: each event stands in the list of due events under its own condition alone. -/
theorem emptyQueuePassesAMillisecond : Obligations.EmptyQueuePassesAMillisecond := by
  intro s empty
  refine ⟨fun held => ?held, fun running => ⟨_, step_empty empty running, rfl, rfl, fun i => ?settle, fun d left present => ?lost,
    fun l => ?flash, rfl, LayoutClock.aged_eq _, LinkPort.aged_eq _, rfl, rfl, rfl, rfl, rfl, rfl, rfl, rfl, ?due⟩⟩
  case held => simp [step, empty, millisecond, held]
  case settle => simp [State.aged, Part.aged, Road.sect, Section.aged, timerDown_eq]
  case lost => simpa [State.aged, Part.aged] using Handset.aged_present present
  case flash => simp only [State.aged, Part.aged, Road.line, Table.at_mapAll, Line.aged_eq]
  case due =>
    have sect (i : SectionId) : Table.at s.aged.part.road.sections i = s.aged.part.road.sect i := rfl
    have line (l : LineId) : Table.at s.aged.part.road.lines l = s.aged.part.road.line l := rfl
    have markers : s.aged.part.markers = s.part.markers := rfl
    simp [dueEvents, mem_dueIf, Table.mem_numbers, waitOver_iff, Handset.due_iff, Line.due_iff, LinkPort.messageDue_iff,
      TimeBase.markerTick, timerDue, LayoutClock.secondDue, sect, line, markers]

end Sys2Proof.Machine
end

section
/-! The receiver, the inbound queue and the end of a message (R188 to R194, R199). -/

namespace Sys2Proof.Machine

/-! ## A transmitter with nothing to choose -/

/-- A choice that changes nothing: a message is on the line, or there is neither a reply nor a notice to send. -/
theorem transmit_eq_self {s : State} (h : transmit s = s) :
    (∃ f n, s.link.tx = .sending f n) ∨ (s.link.slot = none ∧ s.part.road.notices.next? = none) := by
  cases sends : s.link.tx with
  | sending f n => exact Or.inl ⟨f, n, rfl⟩
  | idle =>
    right
    have unsent {t : State} (e : transmit s = t) : t.link.tx = .idle := by rw [← e, h, sends]
    cases slot : s.link.slot with
    | some f =>
      have := unsent (transmit_reply sends slot)
      cases this
    | none =>
      cases notice : s.part.road.notices.next? with
      | none => exact ⟨rfl, rfl⟩
      | some i =>
        have := unsent (transmit_notice sends slot notice)
        cases this

/-- The choice looks at the message on the line, the reply slot and the notices alone. -/
theorem transmit_same {s t : State} (h : transmit s = s) (tx : t.link.tx = s.link.tx) (slot : t.link.slot = s.link.slot)
    (notices : t.part.road.notices = s.part.road.notices) : transmit t = t := by
  obtain ⟨f, n, sends⟩ | ⟨empty, nothing⟩ := transmit_eq_self h
  · exact transmit_sending (tx.trans sends)
  · cases sends : t.link.tx with
    | sending f n => exact transmit_sending sends
    | idle => exact transmit_nothing sends (slot.trans empty) (by rw [notices, nothing])

/-! ## Bytes from the host (R188, R189, R191) -/

/-- The link port and the part as a byte leaves them before the link is served: receiver, gap timer and error counts. -/
def Received (s t : State) : Prop :=
  t.link = { s.link with receiver := t.link.receiver, gap := t.link.gap, framingErrors := t.link.framingErrors,
                         checkErrors := t.link.checkErrors }

theorem Received.settle {s t : State} (h : Received s t) (quiet : Quiet s) : settle t = transmit t := by
  refine settle_of_served ?_
  unfold Served
  rw [h]
  exact quiet.2

theorem linkEvent_running {f : State → State} {s : State} (quiet : Quiet s) : linkEvent f s = .next (settle (f s)) := by
  simp [linkEvent, running, quiet.1]

/-- A link event that changes receiver, gap timer and counts: then the transmitter chooses. -/
theorem linkEvent_received {f : State → State} {s t : State} (quiet : Quiet s) (e : f s = t) (h : Received s t) :
    linkEvent f s = .next (transmit t) := by
  rw [linkEvent_running quiet, e, h.settle quiet]

/-- A link event that changes receiver and gap timer alone, where the transmitter had nothing to choose. -/
theorem linkEvent_silent {f : State → State} {s : State} {v : Receiver} {g : Option Nat} (quiet : Quiet s)
    (rests : transmit s = s) (e : f s = { s with link := { s.link with receiver := v, gap := g } }) :
    linkEvent f s = .next { s with link := { s.link with receiver := v, gap := g } } := by
  rw [linkEvent_received quiet e rfl]
  exact congrArg Host.Outcome.next (transmit_same rests rfl rfl rfl)

/-- A link event without effect. -/
theorem linkEvent_nothing {f : State → State} {s : State} (quiet : Quiet s) (rests : transmit s = s) (e : f s = s) :
    linkEvent f s = .next s :=
  linkEvent_silent (v := s.link.receiver) (g := s.link.gap) quiet rests e

section Receiver

variable {s : State} (taken : s.link.rstTaken = false)
include taken

theorem receiveByte_hunt (h : s.link.receiver = .hunt) (b : Byte) : receiveByte (.good b) s = huntByte b s := by
  simp [receiveByte, taken, h]

theorem receiveByte_length (h : s.link.receiver = .length) (b : Byte) : receiveByte (.good b) s = lengthByte b s := by
  simp [receiveByte, taken, h]

theorem receiveByte_body {len : Byte} {got : List Byte} (h : s.link.receiver = .body len got) (b : Byte) :
    receiveByte (.good b) s = bodyByte len got b s := by
  simp [receiveByte, taken, h]

theorem receiveByte_bad_hunt (h : s.link.receiver = .hunt) : receiveByte .bad s = s := by
  simp [receiveByte, taken, h]

theorem receiveByte_bad (h : s.link.receiver ≠ .hunt) : receiveByte .bad s = abandon s := by
  unfold receiveByte
  rw [if_neg (by simp [taken])]
  cases v : s.link.receiver with
  | hunt => exact absurd v h
  | length => rfl
  | body len got => rfl

theorem gapExpiry_due (h : s.link.receiver ≠ .hunt) (due : s.link.gap = some 0) : gapExpiry s = abandon s := by
  unfold gapExpiry
  rw [if_neg (by simp [taken, due, timerDue])]
  cases v : s.link.receiver with
  | hunt => exact absurd v h
  | length => rfl
  | body len got => rfl

end Receiver

theorem gapExpiry_hunt {s : State} (h : s.link.receiver = .hunt) : gapExpiry s = s := by
  simp [gapExpiry, h]

theorem gapExpiry_early {s : State} (h : s.link.gap ≠ some 0) : gapExpiry s = s := by
  simp [gapExpiry, timerDue, h]

theorem huntByte_other {b : Byte} (h : b ≠ 0xA6) (s : State) : huntByte b s = s := if_neg h

theorem lengthByte_inside {b : Byte} (low : 2 ≤ b.toNat) (high : b.toNat ≤ 62) (s : State) :
    lengthByte b s = s.onLink (LinkPort.receiving (.body b [])) := by
  simp [lengthByte, low, high]

/-- A length out of range abandons the frame and is examined again in HUNT. -/
theorem lengthByte_outside {b : Byte} (h : b.toNat < 2 ∨ 62 < b.toNat) (s : State) :
    lengthByte b s
      = { s with link := { s.link with receiver := if b = 0xA6 then .length else .hunt,
                                       gap := if b = 0xA6 then some 5 else none,
                                       framingErrors := countUp 255 s.link.framingErrors },
                 part := { s.part with road := s.part.road.raise srcLinkError 0 } } := by
  have outside : ¬ (2 ≤ b.toNat ∧ b.toNat ≤ 62) := by omega
  simp only [lengthByte, Bool.and_eq_true, decide_eq_true_eq, if_neg outside, huntByte]
  split <;> rfl

theorem bodyByte_more {len b : Byte} {got : List Byte} (h : got.length + 1 ≠ len.toNat + 2) (s : State) :
    bodyByte len got b s = s.onLink (LinkPort.receiving (.body len (got ++ [b]))) := by
  simp only [bodyByte, List.length_append, List.length_singleton, if_neg h]

theorem bodyByte_last {len b : Byte} {got : List Byte} (h : got.length + 1 = len.toNat + 2) (s : State) :
    bodyByte len got b s = completeFrame len (got ++ [b]) s := by
  simp only [bodyByte, List.length_append, List.length_singleton, if_pos h]

/-- Settles O11, the receiver's states one by one. -/
theorem receiverFollowsTheBytes : Obligations.ReceiverFollowsTheBytes := by
  intro s quiet rests taken
  refine ⟨fun hunt => ⟨?bad, ?gap, fun b other => ?other, ?sync⟩, fun len b low high => ?length, fun len b outside => ?outside,
    fun len got b body more => ?more, fun len got b body last wrong => ?wrong, fun early => ?early,
    fun inFrame => ⟨?badInFrame, fun due => ?due⟩⟩
  case bad => exact linkEvent_nothing quiet rests (receiveByte_bad_hunt taken hunt)
  case gap => exact linkEvent_nothing quiet rests (gapExpiry_hunt hunt)
  case other => exact linkEvent_nothing quiet rests ((receiveByte_hunt taken hunt b).trans (huntByte_other other s))
  case sync => exact linkEvent_silent quiet rests (receiveByte_hunt taken hunt 0xA6)
  case length => exact linkEvent_silent quiet rests ((receiveByte_length taken len b).trans (lengthByte_inside low high s))
  case outside =>
    exact linkEvent_received quiet ((receiveByte_length taken len b).trans (lengthByte_outside outside s)) rfl
  case more => exact linkEvent_silent quiet rests ((receiveByte_body taken body b).trans (bodyByte_more more s))
  case wrong =>
    refine linkEvent_received quiet ((receiveByte_body taken body b).trans ((bodyByte_last last s).trans ?_)) rfl
    exact if_neg wrong
  case early => exact linkEvent_nothing quiet rests (gapExpiry_early early)
  case badInFrame => exact linkEvent_received quiet (receiveByte_bad taken inFrame) rfl
  case due => exact linkEvent_received quiet (gapExpiry_due taken inFrame due) rfl

/-! ## The bytes of a frame (R188, R189, R206) -/

theorem runAll_cons {c : Instr} {s t : State} (h : exec c s = .next t) (cs : List Instr) : runAll (c :: cs) s = runAll cs t := by
  simp [runAll, h]

/-- The receiver in the body of a frame, its gap timer started. -/
def State.inBody (len : Byte) (got : List Byte) (s : State) : State := s.onLink (LinkPort.receiving (.body len got))

section Frame

variable {s : State} (quiet : Quiet s) (rests : transmit s = s) (taken : s.link.rstTaken = false)
include quiet rests taken

/-- The bytes that follow the length byte are stored while more are to come. -/
theorem runAll_body (len : Byte) (bs : List Byte) (cs : List Instr) (got : List Byte)
    (room : got.length + bs.length < len.toNat + 2) :
    runAll (arriving bs ++ cs) (s.inBody len got) = runAll cs (s.inBody len (got ++ bs)) := by
  induction bs generalizing got with
  | nil => rw [List.append_nil]; rfl
  | cons b bs ih =>
    rw [List.length_cons] at room
    have stored : exec (.byteReceived (.good b)) (s.inBody len got) = .next (s.inBody len (got ++ [b])) :=
      linkEvent_silent (s := s.inBody len got) quiet (transmit_same rests rfl rfl rfl)
        ((receiveByte_body (s := s.inBody len got) taken rfl b).trans (bodyByte_more (by omega) _))
    have rest := ih (got ++ [b]) (by rw [List.length_append, List.length_singleton]; omega)
    rw [List.append_assoc, List.singleton_append] at rest
    rw [← rest]
    exact runAll_cons stored _

/-- With the receiver in HUNT the start byte and the length byte lead into the body. -/
theorem runAll_start (hunt : s.link.receiver = .hunt) {len : Byte} (low : 2 ≤ len.toNat) (high : len.toNat ≤ 62)
    (cs : List Instr) : runAll (arriving [0xA6, len] ++ cs) s = runAll cs (s.inBody len []) := by
  let started : State := s.onLink (LinkPort.receiving .length)
  have start : exec (.byteReceived (.good 0xA6)) s = .next started :=
    linkEvent_silent quiet rests (receiveByte_hunt taken hunt 0xA6)
  have length : exec (.byteReceived (.good len)) started = .next (s.inBody len []) :=
    linkEvent_silent (s := started) quiet (transmit_same rests rfl rfl rfl)
      ((receiveByte_length (s := started) taken rfl len).trans (lengthByte_inside low high started))
  exact (runAll_cons start _).trans (runAll_cons length cs)

end Frame

/-- The check agrees with a frame's own bytes, and the request they carry is offered (R189). -/
theorem completeFrame_frame (kind tag : Byte) (body : List Byte) {len : Byte} (fits : len.toNat = 2 + body.length) (s : State) :
    completeFrame len (kind :: tag :: body ++ halfBytes (crc (len :: kind :: tag :: body)).toNat) s
      = offer { kind, tag, body } (s.onLink fun l => { l with receiver := .hunt, gap := none }) := by
  have size : (kind :: tag :: body).length = len.toNat := by simp only [List.length_cons, fits]; omega
  unfold completeFrame
  rw [← size, List.take_left, List.drop_left]
  exact if_pos rfl

/-- Settles O9: the frame's bytes are stored one by one, and its last byte offers the request. -/
theorem frameBytesAreARequest : Obligations.FrameBytesAreARequest := by
  intro kind tag body s fits quiet rests taken hunt
  have lenFits : (b8 (2 + body.length)).toNat = 2 + body.length := b8_toNat (by omega)
  generalize hlen : b8 (2 + body.length) = len at *
  let check := (crc (len :: kind :: tag :: body)).toNat
  have bytes : frameOf kind tag body = [0xA6, len] ++ ((kind :: tag :: body ++ [b8 (check / 256)]) ++ [b8 check]) := by
    simp [frameOf, coveredBytes, halfBytes, hlen, check]
  have split : arriving (frameOf kind tag body) = arriving [0xA6, len]
      ++ (arriving (kind :: tag :: body ++ [b8 (check / 256)]) ++ [.byteReceived (.good (b8 check))]) := by
    rw [bytes]; simp [arriving]
  let stored := kind :: tag :: body ++ [b8 (check / 256)]
  have size : stored.length + 1 = len.toNat + 2 := by
    simp only [stored, List.length_append, List.length_cons, List.length_nil]; omega
  have last : exec (.byteReceived (.good (b8 check))) (s.inBody len stored)
      = .next (receiveRequest { kind, tag, body } { s with link := { s.link with gap := none } }) := by
    have offered : receiveByte (.good (b8 check)) (s.inBody len stored)
        = offer { kind, tag, body } ((s.inBody len stored).onLink fun l => { l with receiver := .hunt, gap := none }) := by
      rw [receiveByte_body (s := s.inBody len stored) taken rfl, bodyByte_last size, ← completeFrame_frame kind tag body lenFits]
      simp [stored, halfBytes, check]
    have hunting : ((s.inBody len stored).onLink fun l => { l with receiver := .hunt, gap := none })
        = { s with link := { s.link with gap := none } } := by
      rw [← hunt]; rfl
    have event := linkEvent_running (f := receiveByte (.good (b8 check))) (s := s.inBody len stored) quiet
    rw [offered, hunting] at event
    refine Eq.trans event ?_
    simp [receiveRequest, quiet.1]
  rw [split, runAll_start quiet rests taken hunt (by omega) (by omega),
    runAll_body quiet rests taken len stored _ [] (by simp only [List.length_nil]; omega), List.nil_append, runAll_cons last]
  rfl

/-! ## Requests behind a message (R190, R193) -/

theorem handle_tx (r : Request) (s : State) : (handle r s).1.link.tx = s.link.tx := by
  obtain e | e | e := handle_link r s <;> (rw [e]; try rfl)

theorem receiveRequest_running {r : Request} {s : State} (running : s.resets.held = false) :
    receiveRequest r s = settle (offer r s) := by
  simp [receiveRequest, running]

/-- The reply to a request that is taken behind a message waits in the slot. -/
theorem settle_take_sending {r : Request} {s : State} {f : List Byte} {n : Nat} (sends : s.link.tx = .sending f n) :
    settle (take r s) = { (handle r s).1 with
      link := { (handle r s).1.link with tx := .sending f n, slot := some (replyFrame r.kind r.tag (handle r s).2) } } := by
  have still : (handle r s).1.link.tx = .sending f n := (handle_tx r s).trans sends
  rw [settle_of_full (s := take r s) still (Or.inl rfl), ← still]
  rfl

/-- Settles O12, by what the slot and the queue hold. -/
theorem requestsWaitOrOverrun : Obligations.RequestsWaitOrOverrun := by
  intro c r s f n hc running sends
  have ran : exec c s = .next (settle (offer r s)) := by rw [exec_request hc, receiveRequest_running running]
  refine ⟨fun taken => ?taken, fun notTaken empty none => ?atOnce, fun notTaken full room => ?waits, fun notTaken full four => ?overrun⟩
  case taken =>
    have ignored : offer r s = s := if_pos taken
    rw [ran, ignored, settle_of_full sends (Or.inr taken)]
  case atOnce =>
    have offered : offer r s = take r s := by simp [offer, notTaken, empty, none]
    have bare : { s with link := { s.link with tx := .idle } }
        = { s with link := { s.link with tx := .idle, slot := Option.none, inbound := [] } } := by
      rw [← empty, ← none]
    have inbound : (handle r s).1.link.inbound = [] := (handle_inbound r s).trans none
    refine ⟨_, _, by rw [exec_request hc, bare, receiveRequest_idle running notTaken], rfl, ?_⟩
    rw [ran, offered, settle_take_sending sends, ← inbound]
  case waits =>
    have offered : offer r s = s.onLink fun l => { l with inbound := l.inbound ++ [r] } := by
      simp [offer, notTaken, Option.isSome_iff_ne_none.mp full, room]
    rw [ran, offered]
    exact congrArg Host.Outcome.next (settle_of_full sends (Or.inl full))
  case overrun =>
    have offered : offer r s = linkError LinkPort.overrun s := by
      simp [offer, notTaken, Option.isSome_iff_ne_none.mp full, Nat.not_lt.mpr four]
    rw [ran, offered]
    exact congrArg Host.Outcome.next (settle_of_full sends (Or.inl full))

/-! ## The end of a message (R193, R194, R199) -/

/-- A waiting reply goes, and the first waiting request is taken behind it. -/
theorem settle_reply_take {r : Request} {rest : List Request} {s : State} {f : List Byte} (idle : s.link.tx = .idle)
    (slot : s.link.slot = some f) (taken : s.link.rstTaken = false) (inbound : s.link.inbound = r :: rest) :
    settle s = take r { s with link := { s.link with tx := .sending f (f.length * 100), slot := none, inbound := rest } } := by
  have sent : transmit s = s.onLink (LinkPort.sendReply f) := transmit_reply idle slot
  have behind (t : State) (sends : t.link.tx = .sending f (f.length * 100)) : serve rest.length (take r t) = take r t := by
    have still : (take r t).link.tx = .sending f (f.length * 100) := (handle_tx r t).trans sends
    rw [serve_idle _ (Or.inr (by rw [transmit_sending still]; rfl)), transmit_sending still]
  have may : (transmit s).link.mayTake = true := by rw [sent]; simp [LinkPort.mayTake, LinkPort.sendReply, LinkPort.send, taken]
  have waits : (transmit s).link.inbound = r :: rest := (transmit_inbound s).trans inbound
  rw [settle, inbound, List.length_cons, serve, may, waits]
  refine (behind _ ?_).trans ?_
  · rw [sent]; rfl
  · rw [sent]; rfl

/-- Settles O13, by the reply slot, the queue and the notices. -/
theorem aMessageEnds : Obligations.AMessageEnds := by
  intro s old n running notTaken sends
  let rested : State := { s with link := { s.link with tx := .idle } }
  have ran : exec .messageSent s = .next (settle rested) := by
    have event : messageSent s = settle rested := by simp [messageSent, sends, notTaken, rested, State.onLink]
    simp [exec, execMessageSent, Machine.running, running, event]
  have nothingWaits (none : s.link.inbound = []) : settle rested = transmit rested := serve_idle _ (Or.inl none)
  refine ⟨fun f slot none => ?reply, fun f r rest g slot inbound hg => ?onPart, fun f r rest c slot inbound hc => ?request,
    fun empty none nothing => ?rests, fun i empty none chosen => ?notice⟩
  case reply =>
    rw [ran, nothingWaits none, transmit_reply (s := rested) rfl slot]
    rfl
  case onPart =>
    rw [ran, settle_reply_take (s := rested) rfl slot notTaken inbound, take_onPart _ hg]
  case request =>
    refine ⟨_, _, by rw [exec_request hc, receiveRequest_idle running notTaken], rfl, ?_⟩
    rw [ran, settle_reply_take (s := rested) rfl slot notTaken inbound]
    have line := handle_line r (.sending f (f.length * 100)) none rest s
    simp only [take, rested, line]
    rfl
  case rests =>
    rw [ran, nothingWaits none, transmit_nothing (s := rested) rfl empty nothing]
  case notice =>
    refine ⟨_, _, ?_, rfl, rfl⟩
    rw [ran, nothingWaits none, transmit_notice (s := rested) rfl empty chosen]
    rfl

end Sys2Proof.Machine
end

section
/-! The lists of notice sources (R200 to R202) and the queries. -/

namespace Sys2Proof.Machine

/-! ## Requests of a ready part -/

/-- A request whose block answers `reply` and leaves the part at `q`. -/
theorem exec_answers {c : Instr} {kind tag : Byte} {body : List Byte} {f : Part → Part × Reply} {s : State} {q : Part}
    {reply : Reply} (ready : Ready s) (answer : f s.part = (q, reply)) (hc : asRequest? c = some ⟨kind, tag, body⟩)
    (hk : handle ⟨kind, tag, body⟩ = onPart f) : exec c s = .next (s.replied kind tag reply q) := by
  rw [exec_ready hc ready hk, answer]

/-! ## Operations on several records of a table -/

/-- An idempotent change of every listed record. -/
theorem Table.at_foldl_upd {α : Type} {n : Nat} {f : α → α} (idempotent : ∀ a, f (f a) = f a) (is : List (Fin n))
    (t : Table α n) (i : Fin n) :
    Table.at (is.foldl (fun t i => Table.upd t i f) t) i = if i ∈ is then f (Table.at t i) else Table.at t i := by
  induction is generalizing t with
  | nil => simp
  | cons j is ih =>
    rw [List.foldl_cons, ih, Table.at_upd]
    by_cases same : i = j <;> by_cases listed : i ∈ is <;> simp [same, listed, idempotent]

theorem Table.toList_eq {α : Type} {n : Nat} (t : Table α n) : t.toList = (List.finRange n).map (Table.at t) := by
  apply List.ext_getElem
  · simp
  · intro k h1 h2
    simp [Table.at]

/-! ## ENN, DSN, CLN and PRN (R200 to R202) -/

theorem sourceOf_b8 (i : SourceId) : sourceOf? (b8 i.val) = some i := index?_b8 i (by decide)

theorem readSources_b8 {srcs : List SourceId} (fits : srcs.length ≤ 21) :
    readSources (srcs.map fun i => b8 i.val) = some (srcs.map fun i => b8 i.val) := by
  simp [readSources, fits]

theorem mapM_sourceOf (srcs : List SourceId) : (srcs.map fun i => b8 i.val).mapM sourceOf? = some srcs := by
  have read := mapM_map_some (f := sourceOf?) (g := fun i => b8 i.val) (h := id) srcs fun i _ => sourceOf_b8 i
  rwa [List.map_id] at read

theorem listRequest_sources {srcs : List SourceId} (fits : srcs.length ≤ 21) (f : List SourceId → Part → Part) (p : Part) :
    listRequest (srcs.map fun i => b8 i.val) f p = accept (f srcs p) := by
  simp only [listRequest, readSources_b8 fits, mapM_sourceOf]

theorem answerCln_sources {srcs : List SourceId} (fits : srcs.length ≤ 21) (s : State) :
    answerCln (srcs.map fun i => b8 i.val) s
      = ({ s with part := s.part.onNotices (NoticeControl.eachOf NoticeSource.cleared srcs),
                  link := if srcs.contains srcLinkError then s.link.zeroCounts else s.link }, okReply) := by
  simp only [answerCln, readSources_b8 fits, mapM_sourceOf]
  rfl

theorem priorityOf_b8 {e : SourceId × Nat} (inRange : e.2 ≤ 7) : priorityOf? (b8 e.1.val, b8 e.2) = some e := by
  have value : (b8 e.2).toNat = e.2 := b8_toNat (by omega)
  simp [priorityOf?, sourceOf_b8, value, inRange]

theorem answerPrn_entries {es : List (SourceId × Nat)} (fits : es.length ≤ 21) (inRange : ∀ e ∈ es, e.2 ≤ 7) (p : Part) :
    answerPrn (es.flatMap fun e => [b8 e.1.val, b8 e.2]) p = accept (p.onNotices (NoticeControl.prioritised es)) := by
  have pairs := pairsOf_flatMap (fun e : SourceId × Nat => b8 e.1.val) (fun e => b8 e.2) es
  have entries := mapM_map_some (f := priorityOf?) (g := fun e : SourceId × Nat => (b8 e.1.val, b8 e.2)) (h := id) es
    fun e he => priorityOf_b8 (inRange e he)
  rw [List.map_id] at entries
  simp [answerPrn, readPriorities, pairs, fits, entries]

/-- The last entry of a source stands. -/
theorem at_prioritised (es : List (SourceId × Nat)) (k : NoticeControl) (i : SourceId) :
    Table.at (NoticeControl.prioritised es k).sources i = { Table.at k.sources i with
      priority := ((es.reverse.find? fun e => e.1 = i).map Prod.snd).getD (Table.at k.sources i).priority } := by
  unfold NoticeControl.prioritised
  dsimp only
  generalize k.sources = t
  induction es generalizing t with
  | nil => simp
  | cons e es ih =>
    rw [List.foldl_cons, ih, Table.at_upd, List.reverse_cons, List.find?_append]
    by_cases same : i = e.1
    · cases es.reverse.find? fun e => e.1 = i <;> simp [same]
    · have other : e.1 ≠ i := fun h => same h.symm
      cases es.reverse.find? fun e => e.1 = i <;> simp [same, other]

/-- Settles O21: each list is read back, and its entries act one after another. -/
theorem noticeListsActOnTheListedSources : Obligations.NoticeListsActOnTheListedSources := by
  refine ⟨fun srcs tag s ready fits => ⟨?enn, ?dsn, ?cln⟩, fun es tag s ready fits inRange => ?prn⟩
  case enn =>
    refine ⟨NoticeControl.eachOf (NoticeSource.enable true) srcs s.part.road.notices,
      exec_answers ready (listRequest_sources fits _ _) rfl rfl, rfl, fun i => ?_⟩
    refine (Table.at_foldl_upd (f := NoticeSource.enable true) (fun _ => rfl) srcs _ i).trans ?_
    split
    next listed => simp [listed, NoticeSource.enable]
    next unlisted => simp [unlisted]
  case dsn =>
    refine ⟨NoticeControl.eachOf (NoticeSource.enable false) srcs s.part.road.notices,
      exec_answers ready (listRequest_sources fits _ _) rfl rfl, rfl, fun i => ?_⟩
    refine (Table.at_foldl_upd (f := NoticeSource.enable false) (fun _ => rfl) srcs _ i).trans ?_
    split
    next listed => simp [listed, NoticeSource.enable]
    next unlisted => simp [unlisted]
  case cln =>
    have handled : handle { kind := 0x65, tag := tag, body := srcs.map fun i => b8 i.val } s
        = answerCln (srcs.map fun i => b8 i.val) s := rfl
    have ran := exec_request (c := .cln tag (srcs.map fun i => b8 i.val)) rfl s
    rw [receiveRequest_ready_state ready, handled, answerCln_sources fits] at ran
    obtain ⟨-, -, -, inbound, -⟩ := ready
    refine ⟨NoticeControl.eachOf NoticeSource.cleared srcs s.part.road.notices, _, ran, rfl, rfl, ?counts, ?waits, rfl, rfl, rfl, rfl,
      fun i => ?_⟩
    case counts =>
      by_cases listed : srcLinkError ∈ srcs <;>
        simp [listed, State.onLink, LinkPort.sendReply, LinkPort.send, LinkPort.zeroCounts]
    case waits =>
      by_cases listed : srcLinkError ∈ srcs <;>
        simp [listed, State.onLink, LinkPort.sendReply, LinkPort.send, LinkPort.zeroCounts, inbound]
    exact Table.at_foldl_upd (f := NoticeSource.cleared) (fun _ => rfl) srcs _ i
  case prn =>
    exact ⟨NoticeControl.prioritised es s.part.road.notices, exec_answers ready (answerPrn_entries fits inRange _) rfl rfl, rfl,
      fun i => at_prioritised es _ i⟩

/-! ## What each query answers -/

section Queries

variable (p : Part)

theorem answerSqry_b8 (i : SectionId) : answerSqry [b8 i.val] p = (p, Reply.okay (p.road.sect i).bytes) := by
  simp only [answerSqry, sqry, index?_b8 i (by decide : 64 ≤ 256)]

theorem answerQmk_b8 {first count : Nat} (low : 1 ≤ count) (high : count ≤ 16) (inside : first + count ≤ 96) :
    answerQmk [b8 first, b8 count] p = (p, Reply.okay (halfBytes p.markers.time.toNat ++ halfBytes p.markers.holdOff
      ++ listB Marker.bytes (p.markers.range first count))) := by
  have refused : (95 < first || count < 1 || 16 < count || 96 < first + count) = false := by
    simp only [Bool.or_eq_false_iff, decide_eq_false_iff_not]; omega
  rw [answerQmk, b8_toNat (by omega), b8_toNat (by omega), qmk, refused]
  rfl

theorem answerQcv_b8 (c : ConvoyId) {k : Nat} {body : List Byte} (small : k < 256) (part : p.convoyPart c k = some body) :
    answerQcv [b8 c.val, b8 k] p = (p, Reply.okay body) := by
  simp only [answerQcv, qcv, index?_b8 c (by decide : 8 ≤ 256), b8_toNat small, part]

theorem answerQdr_b8 (d : DriverId) :
    answerQdr [b8 d.val] p = (p, Reply.okay ((Table.at p.drivers.handsets d).bytes
      ++ listB (fun c => [b8 c.val]) (p.road.drivenBy d) ++ [b8 p.drivers.errors])) := by
  simp only [answerQdr, qdr, index?_b8 d (by decide : 8 ≤ 256)]

theorem answerQcl_b8 (k : CellId) :
    answerQcl [b8 k.val] p = (p, Reply.okay ((Table.at p.cells k).bytes ++ p.consumerBytes k)) := by
  simp only [answerQcl, qcl, index?_b8 k (by decide : 8 ≤ 256)]

theorem answerQsl_b8 (i : SlotId) : answerQsl [b8 i.val] p = (p, Reply.okay (p.slotBytes i)) := by
  simp only [answerQsl, qsl, index?_b8 i (by decide : 24 ≤ 256)]

theorem answerQln_b8 (l : LineId) : answerQln [b8 l.val] p = (p, Reply.okay (p.lineBytes l)) := by
  simp only [answerQln, qln, index?_b8 l (by decide : 16 ≤ 256)]

theorem answerQdp_b8 (e : DepartureId) : answerQdp [b8 e.val] p = (p, Reply.okay (Table.at p.departures e).bytes) := by
  simp only [answerQdp, qdp, index?_b8 e (by decide : 8 ≤ 256)]

end Queries

theorem exec_qst {s : State} (ready : Ready s) (tag : Byte) :
    exec (.qst tag []) s = .next (s.replied 0x60 tag (Reply.okay s.statusBytes) s.part) := by
  have handled : handle { kind := 0x60, tag := tag, body := [] } s = (s, Reply.okay s.statusBytes) := rfl
  rw [exec_request rfl, receiveRequest_ready_state ready, handled]
  obtain ⟨-, -, slot, -, -⟩ := ready
  simp [State.onLink, LinkPort.sendReply, LinkPort.send, lineTime, State.replied, slot]

/-- Settles O22, query by query. -/
theorem queriesChangeNothing : Obligations.QueriesChangeNothing := by
  intro tag s ready
  refine ⟨fun i => ?sqry, fun first count _ low high inside => ?qmk, fun c k inRange => ?qcv, fun d => ?qdr, fun k => ?qcl,
    fun i => ?qsl, fun l => ?qln, ?qck, fun e => ?qdp, ?qst, fun k inRange => ?qnt⟩
  case sqry => exact ⟨_, exec_answers ready (answerSqry_b8 _ i) rfl rfl⟩
  case qmk => exact ⟨_, exec_answers ready (answerQmk_b8 _ low high inside) rfl rfl⟩
  case qcv =>
    obtain ⟨body, part⟩ : ∃ body, s.part.convoyPart c k = some body := by
      interval_cases k <;> exact ⟨_, rfl⟩
    exact ⟨body, exec_answers ready (answerQcv_b8 _ c (by omega) part) rfl rfl⟩
  case qdr => exact ⟨_, exec_answers ready (answerQdr_b8 _ d) rfl rfl⟩
  case qcl => exact ⟨_, exec_answers ready (answerQcl_b8 _ k) rfl rfl⟩
  case qsl => exact ⟨_, exec_answers ready (answerQsl_b8 _ i) rfl rfl⟩
  case qln => exact ⟨_, exec_answers ready (answerQln_b8 _ l) rfl rfl⟩
  case qck => exact ⟨_, exec_answers ready rfl rfl rfl⟩
  case qdp => exact ⟨_, exec_answers ready (answerQdp_b8 _ e) rfl rfl⟩
  case qst => exact ⟨_, exec_qst ready tag⟩
  case qnt =>
    interval_cases k
    · exact ⟨_, exec_answers ready rfl rfl rfl⟩
    · exact ⟨_, exec_answers ready rfl rfl rfl⟩

/-! ## The bytes of a query's reply -/

theorem optB_match {α : Type} (o : Option α) (f : α → Nat) :
    optB (o.map f) = match o with | some a => [b8 (f a)] | none => [0xFF] := by
  cases o <;> rfl

theorem flagB_toNat (b : Bool) : b8 b.toNat = flagB b := by cases b <;> rfl

/-- The real time to the next minute change is the least that brings the fraction that far (R165). -/
theorem untilMinute_least {k : LayoutClock} (ratio : 1 ≤ k.ratio) :
    (60 - k.second) * 1000 ≤ k.fraction + k.untilMinute * k.ratio
      ∧ ∀ n, (60 - k.second) * 1000 ≤ k.fraction + n * k.ratio → k.untilMinute ≤ n := by
  unfold LayoutClock.untilMinute
  generalize (60 - k.second) * 1000 = goal
  constructor
  · have least := Nat.lt_div_mul_add (a := goal - k.fraction + k.ratio - 1) ratio
    omega
  · intro n enough
    rw [Nat.div_le_iff_le_mul_add_pred ratio]
    rw [Nat.mul_comm] at enough
    omega

theorem Section.bytes_undefined {v : Section} (none : v.defn = none) (undefined : v.status = .undefined) :
    v.bytes = List.replicate 8 0xFF ++ [0] ++ List.replicate 9 0xFF ++ [0] := by
  rw [Section.bytes, none, undefined]
  rfl

theorem holdingBytes_eq (o : Option Holding) :
    holdingBytes o = match o with
      | some h => [b8 h.convoy.val, b8 (dirCode h.dir), b8 h.entered, b8 h.exited]
                    ++ listB (fun e => b8 e.member :: halfBytes e.time.toNat) h.log
      | none => [0xFF, 0xFF, 0, 0, 0] := by
  cases o <;> rfl

theorem Convoy.whenFormed_eq (v : Convoy) (n : Nat) :
    v.whenFormed n = optB (if v.state = .vacant then none else some n) := by
  unfold Convoy.whenFormed
  cases v.state <;> rfl

theorem pendingBytes_eq (asked : Option (Nat × Nat)) (o : Option GroupRequest) :
    pendingBytes asked o = optB (asked.map Prod.fst) ++ optB (asked.map Prod.snd)
      ++ (match o with
          | some q => halfBytes q.arrival ++ [b8 q.passed, flagB q.promoted]
          | none => [0xFF, 0xFF, 0xFF, 0xFF]) := by
  unfold pendingBytes
  cases o with
  | none => simp [optB, optH]
  | some q => simp [optB, optH, flagB_toNat]

/-- A sum of powers of two, one for each member of a set of numbers, has the bits of the set. -/
theorem foldl_twoPow (n : Nat) (g : Fin n → Bool) :
    (List.finRange n).foldl (fun m i => if g i then m + 2 ^ i.val else m) 0 < 2 ^ n
      ∧ ∀ i : Fin n, ((List.finRange n).foldl (fun m i => if g i then m + 2 ^ i.val else m) 0).testBit i.val = g i := by
  induction n with
  | zero => exact ⟨by simp, fun i => i.elim0⟩
  | succ n ih =>
    obtain ⟨below, bits⟩ := ih fun i => g i.castSucc
    rw [List.finRange_succ_last, List.foldl_append, List.foldl_map]
    simp only [List.foldl_cons, List.foldl_nil, Fin.val_castSucc, Fin.val_last]
    generalize (List.finRange n).foldl (fun m i => if g i.castSucc then m + 2 ^ i.val else m) 0 = m at below bits
    have doubled : 2 ^ (n + 1) = 2 ^ n + 2 ^ n := by rw [Nat.pow_succ]; omega
    have top : m.testBit n = false := Nat.testBit_lt_two_pow below
    refine ⟨by split <;> omega, fun i => ?_⟩
    induction i using Fin.lastCases with
    | last =>
      rw [Fin.val_last]
      split
      next set => rw [Nat.add_comm, Nat.testBit_two_pow_add_eq, top, set]; rfl
      next unset => rw [top, Bool.not_eq_true _ |>.mp unset]
    | cast i =>
      rw [Fin.val_castSucc]
      split
      · rw [Nat.add_comm, Nat.testBit_two_pow_add_gt i.isLt]; exact bits i
      · exact bits i

/-- The namer of a line is the lowest section whose junction has the line. -/
theorem Road.namer_spec (r : Road) (i : LineId) :
    (∀ k d j, (r.sect k).defn = some d → d.junction = some j → j.line = i →
        ∃ k', (r.namer i).map Fin.val = some k'.val ∧ k' ≤ k
          ∧ ∃ d' j', (r.sect k').defn = some d' ∧ d'.junction = some j' ∧ j'.line = i)
      ∧ ((∀ k d j, (r.sect k).defn = some d → d.junction = some j → j.line ≠ i) → r.namer i = none) := by
  let names (v : Section) : Bool := match v.defn with
    | some d => d.junction.map Junction.line = some i
    | none => false
  have names_iff (k : SectionId) : names (r.sect k) = true
      ↔ ∃ d j, (r.sect k).defn = some d ∧ d.junction = some j ∧ j.line = i := by
    cases defn : (r.sect k).defn with
    | none => simp [names, defn]
    | some d => simp [names, defn]
  have sorted := Table.numbers_sorted r.sections names
  have member (k : SectionId) : k ∈ Table.numbers r.sections names ↔ names (r.sect k) = true := Table.mem_numbers _ _ _
  have named : r.namer i = (Table.numbers r.sections names).head? := rfl
  rw [named]
  cases found : Table.numbers r.sections names with
  | nil =>
    refine ⟨fun k d j defn junction line => ?_, fun _ => rfl⟩
    have : k ∈ Table.numbers r.sections names := (member k).mpr ((names_iff k).mpr ⟨d, j, defn, junction, line⟩)
    rw [found] at this
    cases this
  | cons k' rest =>
    have first : names (r.sect k') = true := (member k').mp (found ▸ List.mem_cons_self)
    obtain ⟨d', j', defn', junction', line'⟩ := (names_iff k').mp first
    refine ⟨fun k d j defn junction line => ⟨k', rfl, ?_, d', j', defn', junction', line'⟩, fun none => ?_⟩
    · have isMember : k ∈ k' :: rest := found ▸ (member k).mpr ((names_iff k).mpr ⟨d, j, defn, junction, line⟩)
      rw [found, List.pairwise_cons] at sorted
      obtain rfl | later := List.mem_cons.mp isMember
      · exact le_refl _
      · exact le_of_lt (sorted.1 k later)
    · exact absurd line' (none k' d' j' defn' junction')

theorem gates_toList (c : Cell) :
    c.gates.toList.flatMap gateBytes = (List.finRange 4).flatMap fun i => gateBytes (Table.at c.gates i) := by
  rw [Table.toList_eq, List.flatMap_map]

theorem selectors_toList (c : Cell) :
    c.selectors.toList.flatMap Selector.bytes = (List.finRange 4).flatMap fun i => Selector.bytes (Table.at c.selectors i) := by
  rw [Table.toList_eq, List.flatMap_map]

end Sys2Proof.Machine
end

section
/-! What the queries report (R5, R15, R72, R82, R110, R126, R144, R154, R165, R173, R195, R203). -/

namespace Sys2Proof.Machine

theorem range_one (k : MarkerScanner) (m : MarkerId) : k.range m.val 1 = [Table.at k.markers m] := by
  simp [MarkerScanner.range]

theorem answerQmk_one (p : Part) (m : MarkerId) :
    answerQmk [b8 m.val, 1] p = (p, Reply.okay (halfBytes p.markers.time.toNat ++ halfBytes p.markers.holdOff
      ++ [1, b8 (holdOffCode (Table.at p.markers.markers m).state)]
      ++ optH ((Table.at p.markers.markers m).lastPulse.map BitVec.toNat))) := by
  have answer := answerQmk_b8 p (first := m.val) (count := 1) (by decide) (by decide) (by omega)
  rw [range_one] at answer
  refine answer.trans ?_
  simp [listB, Marker.bytes, b8]

/-- The section's bytes, with what a status and a holding give spelled out. -/
theorem Section.bytes_defined {v : Section} {d : SectionDef} (defn : v.defn = some d) :
    v.bytes = [b8 (sectionKindCode d.kind), b8 d.endA.val] ++ optB (d.endB.map Fin.val) ++ optB (d.allowed.map dirCode)
        ++ optB (d.junction.map fun j => j.line.val) ++ optH (d.junction.map fun j => j.settle)
        ++ [b8 d.patience, b8 (sectionStatusCode v.status)]
        ++ optB (match v.status with | .out k => some (outCauseCode k) | _ => none)
        ++ optB (match v.status with | .fault k _ => some (faultCauseCode k) | _ => none)
        ++ (match v.status.holding with
            | some h => [b8 h.convoy.val, b8 (dirCode h.dir), b8 h.entered, b8 h.exited]
                          ++ listB (fun e => b8 e.member :: halfBytes e.time.toNat) h.log
            | none => [0xFF, 0xFF, 0, 0, 0])
        ++ optB (v.earmark.map Fin.val) ++ [flagB v.settle.isSome] ++ listB (fun c => [b8 c.val]) v.queue := by
  have out : v.status.outCause?.map outCauseCode = (match v.status with | .out k => some (outCauseCode k) | _ => none) := by
    cases v.status <;> rfl
  have fault : v.status.faultCause?.map faultCauseCode
      = (match v.status with | .fault k _ => some (faultCauseCode k) | _ => none) := by
    cases v.status <;> rfl
  unfold Section.bytes
  rw [defn, holdingBytes_eq, out, fault]
  simp [SectionDef.bytes] <;> rfl

/-- Part 0 of a convoy's report (R72, R110). -/
theorem Convoy.partZero_eq (o : Option GroupRequest) (active : SourceSet) (v : Convoy) :
    v.partZero o active = [b8 (convoyStateCode v.state)]
        ++ optB (match v.state with | .halted b => some (returnStateCode b) | _ => none)
        ++ [b8 v.priority]
        ++ (match v.source with | .host => [0, 0xFF] | .timetable => [1, 0xFF] | .driver d => [2, b8 d.val])
        ++ [b8 v.hostSpeed, b8 v.cruise, b8 v.ramp] ++ halfBytes v.ttDemand ++ [b8 v.lag]
        ++ halfBytes v.gapMin ++ halfBytes v.gapMax ++ [b8 v.trimStep]
        ++ optB (if v.state = .vacant then none else some v.lead) ++ optB (if v.state = .vacant then none else some v.tail)
        ++ optB (if v.state = .vacant then none else some v.furthest)
        ++ optB (v.asked.map Prod.fst) ++ optB (v.asked.map Prod.snd)
        ++ (match o with
            | some q => halfBytes q.arrival ++ [b8 q.passed, flagB q.promoted]
            | none => [0xFF, 0xFF, 0xFF, 0xFF])
        ++ halfBytes v.halt.enabled.toNat ++ halfBytes v.halt.causes.toNat
        ++ [b8 (throttleActionCode v.halt.throttle), b8 (lightsActionCode v.halt.lights), b8 (restartModeCode v.halt.restart),
            flagB v.halt.rearm]
        ++ halfBytes active.toNat := by
  have returned : v.state.return?.map returnStateCode
      = (match v.state with | .halted b => some (returnStateCode b) | _ => none) := by
    cases v.state <;> rfl
  have source : demandSourceBytes v.source
      = (match v.source with | .host => [0, 0xFF] | .timetable => [1, 0xFF] | .driver d => [2, b8 d.val]) := by
    cases v.source <;> rfl
  rw [Convoy.partZero, returned, source, pendingBytes_eq, Convoy.whenFormed_eq, Convoy.whenFormed_eq, Convoy.whenFormed_eq]
  simp only [HaltRecord.bytes, List.append_assoc] <;> rfl

/-- The report of a cell with its consumers (R126, log entry 47). -/
theorem cellReport_eq (p : Part) (k : CellId) :
    (Table.at p.cells k).bytes ++ p.consumerBytes k =
      [flagB (Table.at p.cells k).enabled]
        ++ ((List.finRange 4).flatMap fun i => Selector.bytes (Table.at (Table.at p.cells k).selectors i))
        ++ ((List.finRange 4).flatMap fun i => gateBytes (Table.at (Table.at p.cells k).gates i))
        ++ [b8 (cellFnCode (Table.at p.cells k).fn), flagB (Table.at p.cells k).invert]
        ++ halfBytes (Table.at p.cells k).shotTime
        ++ [flagB (Table.at p.cells k).riseNotice, flagB (Table.at p.cells k).fallNotice, flagB (Table.at p.cells k).latch]
        ++ halfBytes (Table.at p.cells k).remaining
        ++ optB ((Table.at p.cells k).last.map Bool.toNat) ++ [flagB (Table.at p.cells k).reload, flagB (Table.at p.cells k).output]
        ++ listB (fun c => [b8 c.val]) ((List.finRange 8).filter fun c => (p.road.convoy c).halt.enabled.getLsbD k.val)
        ++ listB (fun l => [b8 l.val]) ((List.finRange 16).filter fun l => (p.road.line l).function = .cell k)
        ++ listB (fun l => [b8 l.val])
            ((List.finRange 16).filter fun l => (p.road.line l).function = .flash ∧ (p.road.line l).flashGate = k)
        ++ [flagB (p.mode.holdCell = some k)] := by
  have gated : (Table.numbers p.road.lines fun l => l.function = .flash && l.flashGate = k)
      = (List.finRange 16).filter fun l => (p.road.line l).function = .flash ∧ (p.road.line l).flashGate = k :=
    List.filter_congr fun l _ => (Bool.decide_and _ _).symm
  unfold Cell.bytes Part.consumerBytes
  rw [gates_toList, selectors_toList, gated]
  simp only [Table.numbers, Road.convoy, Road.line, List.append_assoc, List.cons_append, List.nil_append] <;> rfl

theorem stopTimeBytes_spec (o : Option Nat) (frame : Nat) :
    (o = none → stopTimeBytes (o.map fun n => frame - n) = [0xFF, 0xFF])
      ∧ ∀ since, o = some since → frame - since < 0xFFFF → stopTimeBytes (o.map fun n => frame - n) = halfBytes (frame - since) := by
  refine ⟨fun none => by rw [none]; rfl, fun since given fits => ?_⟩
  rw [given, Option.map_some]
  exact if_pos fits

/-- The report of a slot (R144, log entry 20). -/
theorem slotBytes_eq (p : Part) (i : SlotId) :
    p.slotBytes i = (p.slot i).settings.bytes
        ++ (match (p.slot i).waiting with | some w => w.bytes | none => List.replicate 10 0xFF)
        ++ [flagB (p.slot i).keyed]
        ++ (match (p.slot i).onAir with | .offAir => [0, 0xFF] | .onAir => [1, 0xFF] | .rundown n => [2, b8 n])
        ++ (p.slot i).channels.throttle.bytes ++ (p.slot i).channels.coupler.bytes ++ (p.slot i).channels.lights.bytes
        ++ (p.slot i).channels.aux.bytes
        ++ [b8 (match (p.slot i).direction with | none => 0 | some .forward => 1 | some .reverse => 2)]
        ++ stopTimeBytes ((p.slot i).neutralSince.map fun n => p.composer.frameTime - n)
        ++ (match p.road.placeOf i with | some (c, n) => [b8 c.val, b8 (n + 1)] | none => [0xFF, 0xFF])
        ++ (match (p.slot i).onAir, (p.slot i).sent with
            | .offAir, _ => halfBytes (p.slot i).channels.throttle.value ++ halfBytes (p.slot i).channels.coupler.value
                ++ halfBytes (p.slot i).channels.lights.value ++ halfBytes (p.slot i).channels.aux.value ++ [1]
            | _, some v => halfBytes v.throttle ++ halfBytes v.coupler ++ halfBytes v.lights ++ halfBytes v.aux ++ [0]
            | _, none => List.replicate 8 0xFF ++ [0]) := by
  have waits : ((p.slot i).waiting.map SlotSettings.bytes).getD (List.replicate 10 0xFF)
      = (match (p.slot i).waiting with | some w => w.bytes | none => List.replicate 10 0xFF) := by
    cases (p.slot i).waiting <;> rfl
  have air : (p.slot i).onAir.bytes
      = (match (p.slot i).onAir with | .offAir => [0, 0xFF] | .onAir => [1, 0xFF] | .rundown n => [2, b8 n]) := by
    cases (p.slot i).onAir <;> rfl
  have direction : directionCode (p.slot i).direction
      = (match (p.slot i).direction with | none => 0 | some .forward => 1 | some .reverse => 2) := by
    rcases (p.slot i).direction with _ | _ | _ <;> rfl
  have place : optB ((p.road.placeOf i).map fun e => e.1.val) ++ optB ((p.road.placeOf i).map fun e => e.2 + 1)
      = (match p.road.placeOf i with | some (c, n) => [b8 c.val, b8 (n + 1)] | none => [0xFF, 0xFF]) := by
    cases p.road.placeOf i <;> rfl
  have values : (p.slot i).valueBytes
      = (match (p.slot i).onAir, (p.slot i).sent with
          | .offAir, _ => halfBytes (p.slot i).channels.throttle.value ++ halfBytes (p.slot i).channels.coupler.value
              ++ halfBytes (p.slot i).channels.lights.value ++ halfBytes (p.slot i).channels.aux.value ++ [1]
          | _, some v => halfBytes v.throttle ++ halfBytes v.coupler ++ halfBytes v.lights ++ halfBytes v.aux ++ [0]
          | _, none => List.replicate 8 0xFF ++ [0]) := by
    unfold Slot.valueBytes
    cases (p.slot i).onAir <;> cases (p.slot i).sent <;> rfl
  unfold Part.slotBytes
  dsimp only
  rw [waits, air, direction, values, ← place]
  simp only [Channels.bytes, List.append_assoc]

/-- The report of a line (R154, log entry 21). -/
theorem lineBytes_eq (p : Part) (i : LineId) :
    p.lineBytes i = [b8 (lineDirectionCode (p.line i).direction), b8 (driveCode (p.line i).drive), flagB (p.line i).data]
          ++ (match (p.line i).function with
              | .data => [0, 0xFF] | .junction => [1, 0xFF] | .cell k => [2, b8 k.val] | .flash => [3, 0xFF])
          ++ [flagB (p.line i).invert, flagB (p.line i).wake] ++ halfBytes (p.line i).flashPeriod
          ++ [b8 (p.line i).flashGate.val, flagB (p.line i).junction]
          ++ optB ((p.road.namer i).map Fin.val) ++ [flagB ((p.line i).level p.parkHold p.cells)]
          ++ (match (p.line i).direction with | .output => [flagB ((p.line i).drivenValue p.cells)] | .input => [0xFF])
          ++ (match (p.line i).flash with | some f => [flagB f.phase] | none => [0xFF])
          ++ (match (p.line i).frozen with | some f => [1, b8 (pinCode f.pin)] | none => [0, 0xFF]) := by
  have function : lineFunctionBytes (p.line i).function
      = (match (p.line i).function with
          | .data => [0, 0xFF] | .junction => [1, 0xFF] | .cell k => [2, b8 k.val] | .flash => [3, 0xFF]) := by
    cases (p.line i).function <;> rfl
  have driven : optB (((p.line i).drivenValue? p.cells).map Bool.toNat)
      = (match (p.line i).direction with | .output => [flagB ((p.line i).drivenValue p.cells)] | .input => [0xFF]) := by
    unfold Line.drivenValue?
    cases (p.line i).direction with
    | input => rfl
    | output => simp [optB, flagB_toNat]
  have phase : optB ((p.line i).flash.map fun f => f.phase.toNat)
      = (match (p.line i).flash with | some f => [flagB f.phase] | none => [0xFF]) := by
    cases (p.line i).flash with
    | none => rfl
    | some f => simp [optB, flagB_toNat]
  have frozen : [flagB (p.line i).frozen.isSome] ++ optB ((p.line i).frozen.map fun f => pinCode f.pin)
      = (match (p.line i).frozen with | some f => [1, b8 (pinCode f.pin)] | none => [0, 0xFF]) := by
    cases (p.line i).frozen <;> rfl
  unfold Part.lineBytes
  dsimp only
  rw [function, driven, phase, ← frozen]
  simp only [Part.level, List.append_assoc]

theorem noticeMap_spec (k : NoticeControl) (f : NoticeSource → Bool) :
    ∃ n, k.map f = mapB 3 n ∧ n < 2 ^ 21 ∧ ∀ i : SourceId, n.testBit i.val = f (Table.at k.sources i) := by
  obtain ⟨below, bits⟩ := foldl_twoPow 21 fun i => f (Table.at k.sources i)
  exact ⟨_, rfl, below, bits⟩

/-- Settles O23: the reply of each query is the record's bytes in the order of its rule. -/
theorem queriesReportTheRecords : Obligations.QueriesReportTheRecords := by
  refine ⟨fun tag s ready => ⟨fun m => ?qmk, fun d => ?qdr, ?qck, fun e => ?qdp, ?qst⟩, fun i tag s ready => ⟨fun d defn => ?sqry,
    fun none undefined => ?undefined⟩, fun c tag s ready => ⟨?zero, ?one, ?two, ?three, ?four⟩, fun k tag s ready => ?qcl,
    fun i tag s ready => ?qsl, fun i tag s ready => ?qln, fun tag s ready => ⟨?marks, ?subjects⟩⟩
  case qmk => exact exec_answers ready (answerQmk_one _ m) rfl rfl
  case qdr =>
    refine ⟨(Table.at s.part.drivers.handsets d).presence.bytes, exec_answers ready (answerQdr_b8 _ d) rfl rfl,
      fun left present => ?_, fun lost => ?_⟩
    · rw [present]; rfl
    · rw [lost]; rfl
  case qck =>
    refine ⟨if s.part.clock.running then some s.part.clock.untilMinute else none, exec_answers ready rfl rfl rfl,
      fun stopped => by rw [stopped]; rfl, fun runs ratio => ⟨_, by rw [runs]; rfl, untilMinute_least ratio⟩⟩
  case qdp => exact exec_answers ready (answerQdp_b8 _ e) rfl rfl
  case qst => exact ⟨_, _, exec_qst ready tag⟩
  case sqry =>
    have answer := answerSqry_b8 s.part i
    rw [Section.bytes_defined defn] at answer
    exact exec_answers ready answer rfl rfl
  case undefined =>
    have answer := answerSqry_b8 s.part i
    rw [Section.bytes_undefined none undefined] at answer
    exact exec_answers ready answer rfl rfl
  case zero =>
    have answer := answerQcv_b8 s.part c (k := 0) (by decide) rfl
    rw [Convoy.partZero_eq] at answer
    exact exec_answers ready answer rfl rfl
  case one => exact exec_answers ready (answerQcv_b8 s.part c (k := 1) (by decide) rfl) rfl rfl
  case two => exact exec_answers ready (answerQcv_b8 s.part c (k := 2) (by decide) rfl) rfl rfl
  case three => exact exec_answers ready (answerQcv_b8 s.part c (k := 3) (by decide) rfl) rfl rfl
  case four => exact exec_answers ready (answerQcv_b8 s.part c (k := 4) (by decide) rfl) rfl rfl
  case qcl =>
    have answer := answerQcl_b8 s.part k
    rw [cellReport_eq] at answer
    exact exec_answers ready answer rfl rfl
  case qsl =>
    have answer := answerQsl_b8 s.part i
    rw [slotBytes_eq] at answer
    obtain ⟨none, fits⟩ := stopTimeBytes_spec (s.part.slot i).neutralSince s.part.composer.frameTime
    exact ⟨_, exec_answers ready answer rfl rfl, none, fits⟩
  case qln =>
    have answer := answerQln_b8 s.part i
    rw [lineBytes_eq] at answer
    obtain ⟨lowest, unnamed⟩ := s.part.road.namer_spec i
    exact ⟨_, exec_answers ready answer rfl rfl, lowest, fun none => by rw [unnamed none]; rfl⟩
  case marks =>
    obtain ⟨pending, pendingMap, pendingBelow, pendingBits⟩ := noticeMap_spec s.part.road.notices NoticeSource.pending
    obtain ⟨enabled, enabledMap, enabledBelow, enabledBits⟩ := noticeMap_spec s.part.road.notices NoticeSource.enabled
    obtain ⟨requested, requestedMap, requestedBelow, requestedBits⟩ :=
      noticeMap_spec s.part.road.notices fun n => n.pending && n.enabled
    obtain ⟨announced, announcedMap, announcedBelow, announcedBits⟩ := noticeMap_spec s.part.road.notices NoticeSource.announced
    refine ⟨pending, enabled, requested, announced, ?_, ⟨pendingBelow, enabledBelow, requestedBelow, announcedBelow⟩,
      fun i => ⟨pendingBits i, enabledBits i, requestedBits i, announcedBits i⟩⟩
    have answer : answerQnt [0] s.part = (s.part, Reply.okay s.part.road.notices.partZero) := rfl
    rw [NoticeControl.partZero, pendingMap, enabledMap, requestedMap, announcedMap, Table.toList_eq, List.map_map] at answer
    exact exec_answers ready answer rfl rfl
  case subjects => exact exec_answers ready rfl rfl rfl

end Sys2Proof.Machine
end

section
/-! SDEF (R9, R10). -/

namespace Sys2Proof.Machine

/-! ## The fields of SDEF -/

theorem sectionKindOf_eq_some {n : Nat} {k : SectionKind} (read : sectionKindOf? n = some k) :
    n = sectionKindCode k ∧ 1 ≤ n ∧ n ≤ 3 := by
  unfold sectionKindOf? at read
  split at read <;> cases read <;> exact ⟨rfl, by decide, by decide⟩

theorem lt_of_index?_eq_some {n k : Nat} {i : Fin n} (read : index? n k = some i) : k < n := by
  unfold index? at read
  split at read
  · assumption
  · cases read

theorem b8_ne_none {n : Nat} (small : n < 255) : b8 n ≠ 255#8 := fun h => by
  have := congrArg BitVec.toNat h
  rw [b8_toNat (by omega)] at this
  change n = 255 at this
  omega

/-- The numbers that the nine bytes of SDEF spell for a definition. -/
def SectionDef.request (i : SectionId) (d : SectionDef) (patience : Byte) : SdefReq :=
  { sec := b8 i.val, kind := b8 (sectionKindCode d.kind), endA := b8 d.endA.val,
    endB := ((d.endB.map Fin.val).map b8).getD 0xFF, allowed := ((d.allowed.map dirCode).map b8).getD 0xFF,
    line := ((d.junction.map fun j => j.line.val).map b8).getD 0xFF,
    settle := (d.junction.map Junction.settle).getD 0xFFFF, patience }

theorem readSdef_sdefBody {i : SectionId} {d : SectionDef} {patience : Byte} (sound : d.sound) :
    readSdef (sdefBody i d patience) = some (d.request i patience) := by
  obtain ⟨kind, endA, endB, allowed, junction, dpatience⟩ := d
  obtain ⟨-, -, -, -, -, settles⟩ := sound
  cases junction with
  | none => rfl
  | some j =>
    have whole : halfOf (b8 (j.settle / 256)) (b8 j.settle) = j.settle :=
      halfOf_bytes (by have := (settles j rfl).1; omega)
    simp [readSdef, sdefBody, SectionDef.request, optB, optH, halfBytes, whole]

theorem SectionDef.request_patience {i : SectionId} {d : SectionDef} {patience : Byte} (sound : d.sound)
    (spells : patience = b8 d.patience ∨ (patience = 0xFF ∧ d.patience = 3)) :
    (d.request i patience).patience? = some d.patience := by
  obtain ⟨-, -, -, low, high, -⟩ := sound
  rcases spells with rfl | ⟨rfl, three⟩
  · have value : (b8 d.patience).toNat = d.patience := b8_toNat (by omega)
    have present : b8 d.patience ≠ 255#8 := b8_ne_none (by omega)
    simp [SdefReq.patience?, SectionDef.request, present, value, low, high]
  · simp [SdefReq.patience?, SectionDef.request, three]

theorem SectionDef.request_junction {i : SectionId} {d : SectionDef} {patience : Byte} (sound : d.sound) :
    (d.request i patience).junction? = some (d.junction.map fun j => (j.line.val, j.settle)) := by
  obtain ⟨-, -, -, -, -, settles⟩ := sound
  cases hj : d.junction with
  | none => simp [SdefReq.junction?, SectionDef.request, hj]
  | some j =>
    obtain ⟨short, whole⟩ := settles j hj
    have lineSmall : j.line.val < 16 := j.line.isLt
    have present : b8 j.line.val ≠ 255#8 := b8_ne_none (by omega)
    have settleSmall : j.settle ≠ 0xFFFF := by omega
    have value : (b8 j.line.val).toNat = j.line.val := b8_toNat (by omega)
    simp [SdefReq.junction?, SectionDef.request, hj, present, settleSmall, short, whole, value]

theorem SectionDef.request_endB {i : SectionId} {d : SectionDef} {patience : Byte} (sound : d.sound) :
    (d.request i patience).endB? d.kind d.endA = some d.endB := by
  obtain ⟨dock, differ, -⟩ := sound
  cases hb : d.endB with
  | none => simp [SdefReq.endB?, SectionDef.request, hb, dock.mpr hb]
  | some b =>
    have notDock : d.kind ≠ .dock := fun h => by rw [dock.mp h] at hb; cases hb
    have other : b ≠ d.endA := fun h => differ (by rw [hb, h])
    simp [SdefReq.endB?, SectionDef.request, hb, notDock, index?_b8 b (by decide : 96 ≤ 256), other]

theorem SectionDef.request_allowed {i : SectionId} {d : SectionDef} {patience : Byte} (sound : d.sound) :
    (d.request i patience).allowed? d.kind = some d.allowed := by
  obtain ⟨-, -, oneWay, -⟩ := sound
  cases ha : d.allowed with
  | none =>
    have notOneWay : d.kind ≠ .oneWay := fun h => by simpa [ha] using oneWay.mp h
    simp [SdefReq.allowed?, SectionDef.request, ha, notOneWay]
  | some a =>
    have isOneWay : d.kind = .oneWay := oneWay.mpr (by rw [ha]; rfl)
    cases a <;> simp [SdefReq.allowed?, SectionDef.request, ha, isOneWay] <;> rfl

/-- What the third check of R9 reads back of a definition. -/
theorem SectionDef.request_fields {i : SectionId} {d : SectionDef} {patience : Byte} (sound : d.sound)
    (spells : patience = b8 d.patience ∨ (patience = 0xFF ∧ d.patience = 3)) :
    (d.request i patience).fields?
      = some ({ d with junction := none }, d.junction.map fun j => (j.line.val, j.settle)) := by
  have kind : sectionKindOf? (d.request i patience).kind.toNat = some d.kind := by
    change sectionKindOf? (b8 (sectionKindCode d.kind)).toNat = _
    cases d.kind <;> rfl
  have endA : index? 96 (d.request i patience).endA.toNat = some d.endA := index?_b8 d.endA (by decide)
  simp only [SdefReq.fields?, kind, endA, SectionDef.request_patience sound spells, SectionDef.request_junction sound,
    SectionDef.request_endB sound, SectionDef.request_allowed sound]

theorem SdefReq.inOrder_junction {q : SdefReq} {j : Option (Nat × Nat)} (read : q.junction? = some j) :
    (q.line = 0xFF ∧ q.settle = 0xFFFF ∧ j = none)
      ∨ (q.settle ≤ 2000 ∧ q.settle % 100 = 0 ∧ j = some (q.line.toNat, q.settle)) := by
  unfold SdefReq.junction? at read
  split at read
  next neither =>
    simp only [Bool.and_eq_true, decide_eq_true_eq] at neither
    exact .inl ⟨neither.1, neither.2, (Option.some.inj read).symm⟩
  next =>
    split at read
    next => cases read
    next =>
      split at read
      next fits =>
        simp only [Bool.and_eq_true, decide_eq_true_eq] at fits
        exact .inr ⟨fits.1, fits.2, (Option.some.inj read).symm⟩
      next => cases read

theorem SdefReq.inOrder_patience {q : SdefReq} {n : Nat} (read : q.patience? = some n) :
    q.patience = 0xFF ∨ (1 ≤ q.patience.toNat ∧ q.patience.toNat ≤ 7) := by
  unfold SdefReq.patience? at read
  split at read
  next default => exact .inl default
  next =>
    split at read
    next fits =>
      simp only [Bool.and_eq_true, decide_eq_true_eq] at fits
      exact .inr fits
    next => cases read

theorem SdefReq.inOrder_endB {q : SdefReq} {kind : SectionKind} {endA : MarkerId} {b : Option MarkerId}
    (read : q.endB? kind endA = some b) (hA : index? 96 q.endA.toNat = some endA) :
    if kind = .dock then q.endB = 0xFF else q.endB.toNat < 96 ∧ q.endB ≠ q.endA := by
  unfold SdefReq.endB? at read
  split at read
  next dock =>
    rw [if_pos dock]
    split at read
    next absent => exact absent
    next => cases read
  next through =>
    rw [if_neg through]
    split at read
    next b' hB =>
      split at read
      next => cases read
      next other =>
        refine ⟨lt_of_index?_eq_some hB, fun same => other ?_⟩
        rw [same, hA] at hB
        exact (Option.some.inj hB).symm
    next => cases read

theorem SdefReq.inOrder_allowed {q : SdefReq} {kind : SectionKind} {a : Option Dir} (read : q.allowed? kind = some a) :
    if kind = .oneWay then q.allowed.toNat ≤ 1 else q.allowed = 0xFF := by
  unfold SdefReq.allowed? at read
  split at read
  next oneWay =>
    rw [if_pos oneWay]
    unfold dirOf? at read
    split at read
    next zero => omega
    next one => omega
    next => cases read
  next both =>
    rw [if_neg both]
    split at read
    next absent => exact absent
    next => cases read

/-- The field values that the third check of R9 accepts. -/
def SdefReq.InOrder (q : SdefReq) : Prop :=
  1 ≤ q.kind.toNat ∧ q.kind.toNat ≤ 3 ∧ q.endA.toNat < 96
    ∧ (if q.kind = 3 then q.endB = 0xFF else q.endB.toNat < 96 ∧ q.endB ≠ q.endA)
    ∧ (if q.kind = 1 then q.allowed.toNat ≤ 1 else q.allowed = 0xFF)
    ∧ (q.patience = 0xFF ∨ (1 ≤ q.patience.toNat ∧ q.patience.toNat ≤ 7))

theorem SdefReq.inOrder_of_fields {q : SdefReq} {d : SectionDef} {j : Option (Nat × Nat)} (read : q.fields? = some (d, j)) :
    q.InOrder ∧ q.junction? = some j := by
  unfold SdefReq.fields? at read
  split at read
  next kind endA patience j' hK hA hP hJ =>
    split at read
    next b a hB hD =>
      obtain ⟨code, low, high⟩ := sectionKindOf_eq_some hK
      have ofCode (k : SectionKind) : kind = k ↔ q.kind = b8 (sectionKindCode k) := by
        constructor
        · rintro rfl
          apply BitVec.eq_of_toNat_eq
          rw [code]
          cases kind <;> rfl
        · intro h
          rw [h] at hK
          cases k <;> exact (Option.some.inj hK).symm
      have endB := SdefReq.inOrder_endB hB hA
      have allowed := SdefReq.inOrder_allowed hD
      simp only [ofCode] at endB allowed
      cases read
      exact ⟨⟨low, high, lt_of_index?_eq_some hA, endB, allowed, SdefReq.inOrder_patience hP⟩, hJ⟩
    next => cases read
  next => cases read

/-! ## SDEF -/

theorem Road.junctionFor_of_fits {r : Road} {j : Junction}
    (fits : (r.line j.line).direction = .output ∧ (r.line j.line).function = .junction) :
    r.junctionFor j.line.val j.settle = some j := by
  simp [Road.junctionFor, index?_val, fits]

theorem Road.junctionFor_of_misfit {r : Road} {j : Junction}
    (misfit : ¬ ((r.line j.line).direction = .output ∧ (r.line j.line).function = .junction)) :
    r.junctionFor j.line.val j.settle = none := by
  simp only [Road.junctionFor, index?_val, Bool.and_eq_true, decide_eq_true_eq, if_neg misfit]

theorem SectionStatus.definable_iff (st : SectionStatus) :
    st.definable = true ↔ st = .undefined ∨ st = .free ∨ ∃ k, st = .out k := by
  cases st <;> simp [SectionStatus.definable]

theorem Road.routed_iff (r : Road) (i : SectionId) :
    r.routed i = true ↔ ∃ c, (r.convoy c).state.formed = true ∧ ∃ t ∈ (r.convoy c).route, t.sec = i := by
  simp only [Road.routed, List.any_eq_true, Table.mem_entries, Bool.and_eq_true, decide_eq_true_eq, Road.convoy]
  constructor
  · rintro ⟨⟨c, v⟩, entry, h⟩
    exact ⟨c, entry ▸ h⟩
  · rintro ⟨c, h⟩
    exact ⟨(c, Table.at r.convoys c), rfl, h⟩

theorem Road.lineNamed_iff (r : Road) (i : SectionId) (l : LineId) :
    r.lineNamed i l = true ↔ ∃ k d j, k ≠ i ∧ (r.sect k).defn = some d ∧ d.junction = some j ∧ j.line = l := by
  simp only [Road.lineNamed, List.any_eq_true, Table.mem_entries, Bool.and_eq_true, decide_eq_true_eq, Road.sect]
  constructor
  · rintro ⟨⟨k, v⟩, entry, other, named⟩
    obtain rfl : v = Table.at r.sections k := entry
    split at named
    next d defn =>
      obtain ⟨j, hj, line⟩ := Option.map_eq_some_iff.mp (of_decide_eq_true named)
      exact ⟨k, d, j, other, defn, hj, line⟩
    next => cases named
  · rintro ⟨k, d, j, other, defn, hj, line⟩
    refine ⟨(k, Table.at r.sections k), rfl, other, ?_⟩
    dsimp only
    rw [defn]
    simp [hj, line]

/-- Something uses the section: a queue, an earmark or a route (R9). -/
def Road.uses (r : Road) (i : SectionId) : Prop :=
  ¬ ((r.sect i).queue = [] ∧ (r.sect i).earmark = none
    ∧ ∀ c, (r.convoy c).state.formed = true → ∀ t ∈ (r.convoy c).route, t.sec ≠ i)

/-- No other section names the junction line of the definition. -/
def Road.lineFree (r : Road) (i : SectionId) (d : SectionDef) : Prop :=
  ∀ j, d.junction = some j → ∀ k d', k ≠ i → (r.sect k).defn = some d' → ∀ j', d'.junction = some j' → j'.line ≠ j.line

theorem Road.uses_iff (r : Road) (i : SectionId) :
    (!(r.sect i).queue.isEmpty || (r.sect i).earmark.isSome || r.routed i) = true ↔ r.uses i := by
  simp only [Road.uses, Bool.or_eq_true, Road.routed_iff, Bool.not_eq_true', List.isEmpty_eq_false_iff,
    Option.isSome_iff_ne_none]
  grind

theorem Road.lineFree_of_none {r : Road} {i : SectionId} {d : SectionDef} (none : d.junction = none) : r.lineFree i d :=
  fun j hj => by rw [none] at hj; cases hj

theorem Road.lineFree_iff_of_some {r : Road} {i : SectionId} {d : SectionDef} {j : Junction} (hj : d.junction = some j) :
    r.lineFree i d ↔ r.lineNamed i j.line = false := by
  rw [← Bool.not_eq_true, Road.lineNamed_iff]
  unfold Road.lineFree
  grind

theorem defineSection_accepted {i : SectionId} {d : SectionDef} {p : Part} (unused : ¬ p.road.uses i)
    (free : p.road.lineFree i d) :
    defineSection i d p = accept (p.onRoad fun r => r.setSect i ((r.sect i).define d)) := by
  rw [← Road.uses_iff] at unused
  simp only [defineSection, if_neg unused]
  cases hj : d.junction with
  | none => rfl
  | some j =>
    have unnamed := (Road.lineFree_iff_of_some hj).mp free
    simp only [unnamed]
    rfl

theorem defineSection_refused {i : SectionId} {d : SectionDef} {p : Part} (inUse : p.road.uses i ∨ ¬ p.road.lineFree i d) :
    defineSection i d p = refuse .inUse p := by
  simp only [defineSection]
  split
  next => rfl
  next unused =>
    rw [Road.uses_iff] at unused
    have taken := inUse.resolve_left unused
    cases hj : d.junction with
    | none => exact absurd (Road.lineFree_of_none hj) taken
    | some j =>
      rw [Road.lineFree_iff_of_some hj, Bool.not_eq_false] at taken
      simp only [taken, if_true]

section Answers

variable {i : SectionId} {d : SectionDef} {patience : Byte} {p : Part}

theorem answerSdef_body (sound : d.sound) (definable : (p.road.sect i).status.definable = true)
    (spells : patience = b8 d.patience ∨ (patience = 0xFF ∧ d.patience = 3))
    (lineFits : ∀ j, d.junction = some j →
      (p.road.line j.line).direction = .output ∧ (p.road.line j.line).function = .junction) :
    answerSdef (sdefBody i d patience) p = defineSection i d p := by
  have sec : index? 64 (d.request i patience).sec.toNat = some i := index?_b8 i (by decide)
  simp only [answerSdef, readSdef_sdefBody sound, sdef, sec, definable, SectionDef.request_fields sound spells]
  cases hj : d.junction with
  | none =>
    have whole : { d with junction := none } = d := by rw [← hj]
    simp [whole]
  | some j =>
    have whole : { d with junction := some j } = d := by rw [← hj]
    simp [Road.junctionFor_of_fits (lineFits j hj), whole]

theorem answerSdef_misfit (sound : d.sound) (definable : (p.road.sect i).status.definable = true)
    (spells : patience = b8 d.patience ∨ (patience = 0xFF ∧ d.patience = 3))
    (misfit : ¬ ∀ j, d.junction = some j →
      (p.road.line j.line).direction = .output ∧ (p.road.line j.line).function = .junction) :
    answerSdef (sdefBody i d patience) p = refuse .badVal p := by
  have sec : index? 64 (d.request i patience).sec.toNat = some i := index?_b8 i (by decide)
  obtain ⟨j, hj, bad⟩ : ∃ j, d.junction = some j
      ∧ ¬ ((p.road.line j.line).direction = .output ∧ (p.road.line j.line).function = .junction) := by
    simpa only [not_forall, exists_prop] using misfit
  simp [answerSdef, readSdef_sdefBody sound, sdef, sec, definable, SectionDef.request_fields sound spells, hj,
    Road.junctionFor_of_misfit bad]

theorem answerSdef_undefinable (sound : d.sound) (held : (p.road.sect i).status.definable = false) :
    answerSdef (sdefBody i d patience) p = refuse .badState p := by
  have sec : index? 64 (d.request i patience).sec.toNat = some i := index?_b8 i (by decide)
  simp [answerSdef, readSdef_sdefBody sound, sdef, sec, held]

/-- A field outside its values refuses SDEF: the third check, or the fourth where no such line exists. -/
theorem sdef_disordered {q : SdefReq} (sec : index? 64 q.sec.toNat = some i)
    (definable : (p.road.sect i).status.definable = true)
    (disordered : ¬ (q.InOrder ∧ ((q.line = 0xFF ∧ q.settle = 0xFFFF)
      ∨ (q.line.toNat < 16 ∧ q.settle ≤ 2000 ∧ q.settle % 100 = 0)))) :
    sdef q p = refuse .badVal p := by
  simp only [sdef, sec, definable]
  cases read : q.fields? with
  | none => rfl
  | some x =>
    obtain ⟨d, j⟩ := x
    obtain ⟨inOrder, junction⟩ := SdefReq.inOrder_of_fields read
    rcases SdefReq.inOrder_junction junction with ⟨line, settle, rfl⟩ | ⟨short, whole, rfl⟩
    · exact absurd ⟨inOrder, .inl ⟨line, settle⟩⟩ disordered
    · have noLine : ¬ q.line.toNat < 16 := fun h => disordered ⟨inOrder, .inr ⟨h, short, whole⟩⟩
      simp [Road.junctionFor, index?_none (by omega : 16 ≤ q.line.toNat)]

end Answers

/-- Settles O24, check by check. -/
theorem sdefDefinesASection : Obligations.SdefDefinesASection := by
  refine ⟨fun i d patience tag s ready sound spells => ⟨fun definable lineFits => ⟨fun unused lineFree => ?stored,
    fun inUse => ?inUse⟩, fun held => ?held, fun definable misfit => ?misfit⟩,
    fun i kind endA endB allowed line hi lo patience tag s ready definable disordered => ?disordered⟩
  case stored =>
    have definable := ((s.part.road.sect i).status.definable_iff).mpr definable
    exact exec_answers ready ((answerSdef_body sound definable spells lineFits).trans
      (defineSection_accepted (not_not_intro unused) lineFree)) rfl rfl
  case inUse =>
    have definable := ((s.part.road.sect i).status.definable_iff).mpr definable
    exact exec_answers ready ((answerSdef_body sound definable spells lineFits).trans (defineSection_refused inUse)) rfl rfl
  case held =>
    have held : (s.part.road.sect i).status.definable = false := by
      rcases held with ⟨h, held | held⟩ | ⟨k, h, held⟩ <;> rw [held] <;> rfl
    exact exec_answers ready (answerSdef_undefinable sound held) rfl rfl
  case misfit =>
    have definable := ((s.part.road.sect i).status.definable_iff).mpr definable
    exact exec_answers ready (answerSdef_misfit sound definable spells misfit) rfl rfl
  case disordered =>
    have definable := ((s.part.road.sect i).status.definable_iff).mpr definable
    refine exec_answers ready (f := answerSdef [b8 i.val, kind, endA, endB, allowed, line, hi, lo, patience])
      (sdef_disordered (q := ⟨b8 i.val, kind, endA, endB, allowed, line, halfOf hi lo, patience⟩) (index?_b8 i (by decide))
        definable fun h => disordered ?_) rfl rfl
    obtain ⟨⟨low, high, markerA, endB, dir, patience⟩, junction⟩ := h
    exact ⟨low, high, markerA, endB, dir, patience, junction⟩

end Sys2Proof.Machine
end

section
/-! SOUT and SRST (R11 to R14), with the loss and the restoration they report (R68 to R70). -/

namespace Sys2Proof.Machine

/-! ## Roads and convoys -/

@[simp] theorem Road.setConvoy_setConvoy (r : Road) (c : ConvoyId) (v w : Convoy) :
    (r.setConvoy c v).setConvoy c w = r.setConvoy c w := by
  simp [Road.setConvoy]

@[simp] theorem Road.setConvoy_convoy (r : Road) (c : ConvoyId) : r.setConvoy c (r.convoy c) = r := by
  simp [Road.setConvoy, Road.convoy]

theorem Convoy.nextStatus_eq (v : Convoy) : v.nextStatus = v.route[v.lead + 1]?.map RouteStep.status := rfl

theorem Convoy.mayRun_iff (v : Convoy) : v.mayRun = true ↔ v.nextStatus = none ∨ v.nextStatus = some .held := by
  unfold Convoy.mayRun
  cases v.nextStatus with
  | none => simp
  | some st => simp

theorem ConvoyState.active_iff (st : ConvoyState) :
    st.active = true ↔ st.base? = some .waiting ∨ st.base? = some .running := by
  simp [ConvoyState.active]

theorem ConvoyState.mapBase_mapBase (f g : BaseState → BaseState) (st : ConvoyState) :
    (st.mapBase f).mapBase g = st.mapBase fun b => g (f b) := by
  cases st <;> rfl

/-- Step `j` of the route gets the status `st` (R51). -/
def Convoy.marked (j : Nat) (st : StepStatus) (v : Convoy) : Convoy :=
  v.mapSteps fun n t => if n = j then { t with status := st } else t

theorem Convoy.marked_eq (j : Nat) (st : StepStatus) (v : Convoy) :
    v.marked j st = ({ v with route := v.route.mapIdx fun n t => if n = j then { t with status := st } else t } :
      Convoy).reindex :=
  Convoy.mapSteps_eq_mapIdx v _

/-! ## The loss of a section (R69, R70) -/

section Loss

variable (c : ConvoyId) (r : Road)

theorem afterLoss_of_inactive (still : (r.convoy c).state.active = false) : afterLoss c r = r := by
  simp only [afterLoss, still]
  rfl

/-- A WAITING convoy that may run runs; any other stays. -/
theorem runIfClear_waiting (v : Convoy) (next : v.mayRun = true) :
    (setBase (fun _ => .waiting) v).runIfClear = setBase (fun _ => .running) v := by
  have next' : (setBase (fun _ => .waiting) v).mayRun = true := next
  unfold Convoy.runIfClear
  rw [if_pos next']
  simp [setBase, ConvoyState.mapBase_mapBase]

variable {c r}

theorem afterLoss_of_ahead (moves : (r.convoy c).state.active = true) (next : (r.convoy c).nextStatus = some .ahead) :
    afterLoss c r = ask c ((r.convoy c).lead + 1) (r.updConvoy c (setBase fun _ => .waiting)) := by
  simp only [afterLoss, moves, next]
  rfl

theorem afterLoss_of_clear (moves : (r.convoy c).state.active = true) (next : (r.convoy c).mayRun = true) :
    afterLoss c r = r.updConvoy c (setBase fun _ => .running) := by
  have notAhead : (r.convoy c).nextStatus ≠ some .ahead := by
    rcases (Convoy.mayRun_iff _).mp next with h | h <;> simp [h]
  have run : (r.updConvoy c (setBase fun _ => .waiting)).updConvoy c Convoy.runIfClear
      = r.updConvoy c (setBase fun _ => .running) := by
    simp [Road.updConvoy, runIfClear_waiting _ next]
  simp only [afterLoss, moves, if_true]
  exact run

theorem afterLoss_of_blocked (moves : (r.convoy c).state.active = true) (notAhead : (r.convoy c).nextStatus ≠ some .ahead)
    (blocked : (r.convoy c).mayRun = false) : afterLoss c r = r.updConvoy c (setBase fun _ => .waiting) := by
  have blocked' : (setBase (fun _ => .waiting) (r.convoy c)).mayRun = false := blocked
  have stay : (r.updConvoy c (setBase fun _ => .waiting)).updConvoy c Convoy.runIfClear
      = r.updConvoy c (setBase fun _ => .waiting) := by
    simp [Road.updConvoy, Convoy.runIfClear, blocked']
  simp only [afterLoss, moves, if_true]
  exact stay

theorem forcedLoss_of_unheld {i : SectionId} (none : (r.convoy c).heldStepOf i = none) : forcedLoss c i r = r := by
  simp only [forcedLoss, none]

theorem forcedLoss_of_passed {i : SectionId} {j : Nat} (held : (r.convoy c).heldStepOf i = some j)
    (passed : j ≤ (r.convoy c).lead) : forcedLoss c i r = r.setConvoy c ((r.convoy c).marked j .lost) := by
  simp only [forcedLoss, held, if_neg (Nat.not_lt.mpr passed)]
  rfl

theorem forcedLoss_of_ahead {i : SectionId} {j : Nat} (held : (r.convoy c).heldStepOf i = some j)
    (ahead : (r.convoy c).lead < j) :
    forcedLoss c i r
      = afterLoss c (handBack c ((withdrawAsked c r).setConvoy c (((withdrawAsked c r).convoy c).marked j .ahead))) := by
  simp only [forcedLoss, held, if_pos ahead]
  rfl

end Loss

/-! ## SOUT -/

section Sout

variable {i : SectionId} {p : Part}

theorem answerSout_unheld (force : Bool) (defined : (p.road.sect i).status ≠ .undefined)
    (unheld : (p.road.sect i).status.holding = none) :
    answerSout [b8 i.val, if force then 1 else 0] p = accept (p.onRoad (takeOut i)).reviewHalts := by
  have flag : flagOf? (if force then (1 : Byte) else 0).toNat = some force := by cases force <;> rfl
  simp only [answerSout, sout, index?_b8 i (by decide : 64 ≤ 256), flag, if_neg defined, unheld]

theorem answerSout_forced {h : Holding} (held : (p.road.sect i).status.holding = some h) :
    answerSout [b8 i.val, 1] p = accept (p.onRoad (forceOut h.convoy i)).reviewHalts := by
  have defined : (p.road.sect i).status ≠ .undefined := fun u => by rw [u] at held; cases held
  have flag : flagOf? (1 : Byte).toNat = some true := rfl
  simp only [answerSout, sout, index?_b8 i (by decide : 64 ≤ 256), flag, if_neg defined, held, if_true]

theorem answerSout_held {h : Holding} (held : (p.road.sect i).status.holding = some h) :
    answerSout [b8 i.val, 0] p = refuse .inUse p := by
  have defined : (p.road.sect i).status ≠ .undefined := fun u => by rw [u] at held; cases held
  have flag : flagOf? (0 : Byte).toNat = some false := rfl
  simp only [answerSout, sout, index?_b8 i (by decide : 64 ≤ 256), flag, if_neg defined, held]
  rfl

theorem answerSout_undefined (force : Bool) (undefined : (p.road.sect i).status = .undefined) :
    answerSout [b8 i.val, if force then 1 else 0] p = refuse .badState p := by
  have flag : flagOf? (if force then (1 : Byte) else 0).toNat = some force := by cases force <;> rfl
  simp only [answerSout, sout, index?_b8 i (by decide : 64 ≤ 256), flag, if_pos undefined]

end Sout

theorem reviewHalts_onRoad (f : Road → Road) (p : Part) :
    (p.onRoad f).reviewHalts = { p with road := reviewHalts p.cells p.drivers (f p.road) } := by
  rw [Part.reviewHalts_eq]
  rfl

/-- Settles O25. -/
theorem soutTakesASectionOut : Obligations.SoutTakesASectionOut := by
  refine ⟨fun i force tag s ready => ⟨fun defined unheld => ?unheld, fun h held forced => ?forced, fun held gentle => ?gentle,
    fun undefined => ?undefined⟩, fun c i r => ⟨fun unheld => ?none, fun j held first => ⟨fun passed => ?passed,
    fun ahead => ⟨fun still => ?still, fun moves next => ?ask, fun moves next => ?run, fun moves next => ?wait⟩⟩⟩⟩
  case unheld =>
    have answer := (answerSout_unheld force defined unheld).trans (congrArg accept (reviewHalts_onRoad _ _))
    have kept := (kept_takeOut i s.part.road).trans (kept_reviewHalts s.part.cells s.part.drivers _)
    refine ⟨_, exec_answers ready answer rfl rfl, rfl, kept, ?_, fun unmarked clear => ?_⟩
    · refine ((kept.sections i).status ?_).trans ?_ <;> simp [Section.takenOut]
    · have quiet : takeOut i s.part.road = s.part.road.setSect i (s.part.road.sect i).takenOut := by
        simp [takeOut, unmarked]
      rw [quiet]
      exact clear.road
  case forced =>
    subst forced
    have answer := (answerSout_forced held).trans (congrArg accept (reviewHalts_onRoad _ _))
    have back := (Road.handedBack_forceOut h.convoy i s.part.road).trans
      (kept_reviewHalts s.part.cells s.part.drivers _).handedBack
    refine ⟨_, exec_answers ready answer rfl rfl, rfl, back, ?_⟩
    refine ((back.sections i).status ?_).trans ?_ <;> simp [Section.takenOut]
  case gentle =>
    subst gentle
    obtain ⟨h, held⟩ := Option.isSome_iff_exists.mp held
    exact exec_answers ready (answerSout_held held) rfl rfl
  case undefined => exact exec_answers ready (answerSout_undefined force undefined) rfl rfl
  case none => exact forcedLoss_of_unheld (((r.convoy c).heldStepOf_iff i).1.mpr unheld)
  all_goals have step := (((r.convoy c).heldStepOf_iff i).2 j).mpr ⟨held, first⟩
  case passed => rw [forcedLoss_of_passed step passed, Convoy.marked_eq]
  all_goals rw [forcedLoss_of_ahead step ahead, Convoy.marked_eq]
  case still =>
    rw [← ConvoyState.active_iff, Bool.not_eq_true] at still
    exact afterLoss_of_inactive _ _ still
  all_goals rw [← ConvoyState.active_iff] at moves
  case ask => exact afterLoss_of_ahead moves next
  case run => exact afterLoss_of_clear moves ((Convoy.mayRun_iff _).mpr next)
  case wait =>
    obtain ⟨st, next, notAhead, notHeld⟩ := next
    rw [← Convoy.nextStatus_eq] at next
    refine afterLoss_of_blocked moves (by simpa [next] using notAhead) ?_
    rw [← Bool.not_eq_true, Convoy.mayRun_iff, next]
    simp [notHeld]

/-! ## SRST -/

section Srst

variable {i : SectionId} {p : Part} (entered exited : Byte)

theorem answerSrst_unheld
    (unheld : (∃ k, (p.road.sect i).status = .out k) ∨ ∃ k, (p.road.sect i).status = .fault k none) :
    answerSrst [b8 i.val, entered, exited] p = accept (p.onRoad (restore i)).reviewHalts := by
  rcases unheld with ⟨k, unheld⟩ | ⟨k, unheld⟩ <;>
    simp only [answerSrst, srst, index?_b8 i (by decide : 64 ≤ 256), unheld]

variable {h : Holding} {k : FaultCause} (faulted : (p.road.sect i).status = .fault k (some h))
include faulted

theorem answerSrst_counts (misfit : entered.toNat < exited.toNat ∨ (p.road.convoy h.convoy).memberCount < entered.toNat) :
    answerSrst [b8 i.val, entered, exited] p = refuse .badVal p := by
  simp only [answerSrst, srst, index?_b8 i (by decide : 64 ≤ 256), faulted, Bool.or_eq_true, decide_eq_true_eq,
    if_pos misfit]

theorem answerSrst_held (ordered : exited.toNat ≤ entered.toNat)
    (fits : entered.toNat ≤ (p.road.convoy h.convoy).memberCount) :
    answerSrst [b8 i.val, entered, exited] p
      = accept (p.onRoad (restoreHeld i h entered.toNat exited.toNat)).reviewHalts := by
  have fit : ¬ (entered.toNat < exited.toNat ∨ (p.road.convoy h.convoy).memberCount < entered.toNat) := by omega
  simp only [answerSrst, srst, index?_b8 i (by decide : 64 ≤ 256), faulted, Bool.or_eq_true, decide_eq_true_eq,
    if_neg fit]

omit faulted

theorem answerSrst_refused (settled : (p.road.sect i).status = .undefined ∨ (p.road.sect i).status = .free
      ∨ (∃ h, (p.road.sect i).status = .granted h) ∨ ∃ h, (p.road.sect i).status = .occupied h) :
    answerSrst [b8 i.val, entered, exited] p = refuse .badState p := by
  rcases settled with settled | settled | ⟨h, settled⟩ | ⟨h, settled⟩ <;>
    simp only [answerSrst, srst, index?_b8 i (by decide : 64 ≤ 256), settled]

end Srst

/-- A change of a convoy that leaves its state and its demand source leaves the halts with nothing to do. -/
theorem AllClear.setConvoy {p : Part} {r : Road} {c : ConvoyId} {v : Convoy} (clear : AllClear { p with road := r })
    (state : v.state = (r.convoy c).state) (source : v.source = (r.convoy c).source) :
    AllClear { p with road := r.setConvoy c v } := by
  obtain ⟨cells, faults, drivers, halts⟩ := clear
  refine ⟨cells, faults, fun k => ?_, fun k => ?_⟩
  · dsimp only
    by_cases same : k = c
    · subst same
      have lost := drivers k
      simp only [driverLostActive] at lost ⊢
      rw [Road.convoy_setConvoy_self, source]
      exact lost
    · rw [Road.convoy_setConvoy_other _ _ _ same]
      exact drivers k
  · dsimp only
    by_cases same : k = c
    · subst same
      rw [Road.convoy_setConvoy_self, state]
      exact halts k
    · rw [Road.convoy_setConvoy_other _ _ _ same]
      exact halts k

/-- A section whose settle timer does not run leaves its holder where no group is settling. -/
theorem leaveHolder_timerless {i : SectionId} {r : Road} (settling : r.settling = []) (timer : (r.sect i).settle = none) :
    leaveHolder [i] r = r := by
  have stopped : stopTimer i r = r := by
    have same : { r.sect i with settle := none } = r.sect i := by rw [← timer]
    rw [stopTimer, same]
    simp [Road.setSect, Road.sect]
  have records : leaveRecords [i] r = r := by
    simp only [leaveRecords, List.foldl_cons, List.foldl_nil, stopped, settling, List.map_nil]
    rw [← settling]
  rw [leaveHolder, records, reviewSettling_nil r settling]

theorem releaseReport_of_unheld {c : ConvoyId} {i : SectionId} {r : Road} (none : (r.convoy c).heldStepOf i = none) :
    releaseReport c i r = r := by
  simp only [releaseReport, none]

theorem releaseReport_of_held {c : ConvoyId} {i : SectionId} {r : Road} {j : Nat}
    (held : (r.convoy c).heldStepOf i = some j) :
    releaseReport c i r = raiseLead c (r.setConvoy c ((r.convoy c).marked j .done)) := by
  simp only [releaseReport, held]
  rfl

@[simp] theorem Convoy.reindex_route (v : Convoy) : v.reindex.route = v.route := rfl
@[simp] theorem Convoy.reindex_lead (v : Convoy) : v.reindex.lead = v.lead := rfl

theorem Convoy.marked_route (j : Nat) (st : StepStatus) (v : Convoy) :
    (v.marked j st).route = v.route.mapIdx fun n t => if n = j then { t with status := st } else t := by
  rw [Convoy.marked_eq]
  rfl

/-- The lead stays where the convoy holds a step at or below it, or none at all (R67). -/
theorem raiseLead_of_held {c : ConvoyId} {r : Road} {j : Nat} {t : RouteStep} (low : j ≤ (r.convoy c).lead)
    (step : (r.convoy c).route[j]? = some t) (held : t.status = .settling ∨ t.status = .held) : raiseLead c r = r := by
  have listed : j ∈ (r.convoy c).stepNumbers RouteStep.isHeld :=
    ((r.convoy c).mem_stepNumbers _ _).mpr ⟨t, step, t.isHeld_iff.mpr held⟩
  have sorted := stepNumbersFrom_sorted RouteStep.isHeld (r.convoy c).route 0
  simp only [raiseLead]
  split
  next => rfl
  next k rest numbers =>
    rw [Convoy.stepNumbers] at numbers listed
    rw [numbers] at listed sorted
    have first : k ≤ j := by
      rcases List.mem_cons.mp listed with rfl | later
      · exact Nat.le_refl _
      · exact Nat.le_of_lt (List.rel_of_pairwise_cons sorted later)
    exact if_neg (by omega)

theorem arrivalTestAt_lastStep {c : ConvoyId} {r : Road} (k : Nat) :
    arrivalTestAt c k r = if k = (r.convoy c).lastStep then arrivalTest c r else r := rfl

theorem restorationReport_of_unheld {c : ConvoyId} {i : SectionId} {entered : Nat} {r : Road}
    (none : (r.convoy c).heldStepOf i = none) : restorationReport c i entered r = r := by
  simp only [restorationReport, none]

theorem restorationReport_of_held {c : ConvoyId} {i : SectionId} {entered : Nat} {r : Road} {j : Nat}
    (held : (r.convoy c).heldStepOf i = some j) :
    restorationReport c i entered r = arrivalTestAt c j
      (if 1 ≤ entered ∧ (r.convoy c).lead < j then leadChecks c (r.setConvoy c ((r.convoy c).setLead j)) else r) := by
  simp only [restorationReport, held, leadEntry]
  by_cases entry : 1 ≤ entered
  · simp only [entry, if_true, true_and]
    rfl
  · simp only [entry, if_false, false_and]

/-- The release of a step behind the lead does nothing but make it DONE, where nothing is asked for, nothing is settling and
nothing acts on the halts. -/
theorem release_quiet {p : Part} {i : SectionId} {c : ConvoyId} {r : Road} {n j : Nat} {u : RouteStep}
    (step : (r.convoy c).heldStepOf i = some n) (low : j ≤ (r.convoy c).lead) (other : j ≠ n)
    (heldStep : (r.convoy c).route[j]? = some u) (held : u.status = .settling ∨ u.status = .held) (requests : NoRequests r)
    (settling : r.settling = []) (timer : (r.sect i).settle = none) (clear : AllClear { p with road := r }) :
    reviewHalts p.cells p.drivers (arbitrate (releaseReport c i (leaveHolder [i] r)))
      = r.setConvoy c ((r.convoy c).marked n .done) := by
  have stays : raiseLead c (r.setConvoy c ((r.convoy c).marked n .done)) = r.setConvoy c ((r.convoy c).marked n .done) := by
    refine raiseLead_of_held (j := j) (t := u) ?_ ?_ held
    · rw [Road.convoy_setConvoy_self]
      exact low
    · rw [Road.convoy_setConvoy_self, Convoy.marked_route, List.getElem?_mapIdx, heldStep]
      simp [other]
  have requests' : NoRequests (r.setConvoy c ((r.convoy c).marked n .done)) := requests
  rw [leaveHolder_timerless settling timer, releaseReport_of_held step, stays, requests'.arbitrate]
  exact (clear.setConvoy (v := (r.convoy c).marked n .done) rfl rfl).road

/-- Settles O26. -/
theorem srstRestoresASection : Obligations.SrstRestoresASection := by
  refine ⟨fun i entered exited tag s ready => ⟨fun unheld => ?free, fun k h faulted => ⟨fun misfit => ?misfit,
    fun ordered fits all => ?all, fun ordered fits some => ?some⟩, fun settled => ?settled⟩,
    fun c i entered r => ⟨fun unheld => ?none, fun j held first => ?held⟩⟩
  case free =>
    have answer := (answerSrst_unheld entered exited unheld).trans (congrArg accept (reviewHalts_onRoad _ _))
    have kept := (kept_restore i s.part.road).trans (kept_reviewHalts s.part.cells s.part.drivers _)
    refine ⟨_, exec_answers ready answer rfl rfl, kept, rfl, fun requests clear => ?_⟩
    have idle : NoRequests (freeSection i s.part.road) := requests
    rw [restore, idle.arbitrate]
    exact clear.road
  case misfit => exact exec_answers ready (answerSrst_counts entered exited faulted misfit) rfl rfl
  case all =>
    have answer := (answerSrst_held entered exited faulted ordered fits).trans (congrArg accept (reviewHalts_onRoad _ _))
    have kept := (kept_restoreHeld i h entered.toNat exited.toNat s.part.road).trans
      (kept_reviewHalts s.part.cells s.part.drivers _)
    rw [if_pos all] at kept
    rw [restoreHeld, if_pos all] at answer kept
    refine ⟨_, exec_answers ready answer rfl rfl, kept, rfl, ?_⟩
    intro n t step sec held first ⟨j, u, low, other, heldStep, isHeld⟩ requests settling timer clear
    have numbered : ((freeSection i s.part.road).convoy h.convoy).heldStepOf i = some n :=
      (((s.part.road.convoy h.convoy).heldStepOf_iff i).2 n).mpr ⟨⟨t, step, sec, held⟩,
        fun k below ⟨w, at_k, sec_k, held_k⟩ => by
          obtain ⟨notSettling, notHeld⟩ := first k below w at_k sec_k
          exact held_k.elim notSettling notHeld⟩
    have noTimer : ((freeSection i s.part.road).sect i).settle = none := by
      rw [freeSection, Road.sect_setSect_self]
      exact timer
    rw [release_quiet (p := s.part) numbered low other heldStep isHeld requests settling noTimer clear, Convoy.marked_eq]
    rfl
  case some =>
    have answer := (answerSrst_held entered exited faulted ordered fits).trans (congrArg accept (reviewHalts_onRoad _ _))
    have kept := (kept_restoreHeld i h entered.toNat exited.toNat s.part.road).trans
      (kept_reviewHalts s.part.cells s.part.drivers _)
    rw [if_neg some] at kept
    rw [restoreHeld, if_neg some] at answer kept
    refine ⟨_, exec_answers ready answer rfl rfl, kept, (kept.sections i).status ?_, rfl⟩
    rw [Road.sect_setSect_self]
    dsimp only [Holding.restoredStatus]
    split <;> simp
  case settled => exact exec_answers ready (answerSrst_refused entered exited settled) rfl rfl
  case none => exact restorationReport_of_unheld (((r.convoy c).heldStepOf_iff i).1.mpr unheld)
  case held =>
    have step := (((r.convoy c).heldStepOf_iff i).2 j).mpr ⟨held, first⟩
    exact restorationReport_of_held step

end Sys2Proof.Machine
end

section
/-! The marker scanner (R2 to R4, R6). -/

namespace Sys2Proof.Machine

/-! ## A marker -/

theorem Marker.waited_eq (units : Nat) (now : Half) (m : Marker) :
    m.waited units now = m.since.any fun t => decide (units ≤ (now - t).toNat) := by
  unfold Marker.waited
  cases m.since <;> rfl

theorem Marker.pulses_iff (units : Nat) (now : Half) (m : Marker) :
    m.pulses units now = true ↔ m.state = .armed
      ∨ (m.state = .settling ∧ (m.since.any fun t => decide (units ≤ (now - t).toNat)) = true) := by
  rw [← Marker.waited_eq]
  simp [Marker.pulses]

theorem Marker.retest_eq (units : Nat) (now : Half) (m : Marker) :
    m.retest units now = { m with
      state := if m.state = .settling ∧ m.waited units now = true then .armed
               else if m.state = .armed ∧ m.waited units now = false then .settling else m.state } := by
  obtain ⟨state, since, lastPulse⟩ := m
  generalize waits : Marker.waited units now ⟨state, since, lastPulse⟩ = waited
  cases state <;> cases waited <;> simp [Marker.retest, waits]

/-- The end of a wait arms a SETTLING marker that has waited long enough (R3). -/
theorem Marker.expiry_eq (units : Nat) (now : Half) (m : Marker) :
    (if m.state = .settling then m.retest units now else m)
      = if m.state = .settling ∧ (m.since.any fun t => decide (units ≤ (now - t).toNat)) = true
        then { m with state := .armed } else m := by
  rw [← Marker.waited_eq]
  by_cases settling : m.state = .settling
  · simp only [settling, if_true, true_and, Marker.retest]
  · simp only [settling, if_false, false_and]

theorem Marker.level_of_pulses {units : Nat} {now : Half} {m : Marker} (pulses : m.pulses units now = true) :
    m.level? ≠ some true := by
  obtain ⟨state, since, lastPulse⟩ := m
  cases state <;> simp [Marker.pulses, Marker.level?] at pulses ⊢

section Report

variable {units : Nat} {now : Half} {m : Marker}

theorem Marker.report_same {level : Bool} (same : m.level? = some level) : m.report units now level = m := by
  simp [Marker.report, same]

theorem Marker.report_inactive (differs : m.level? ≠ some false) :
    m.report units now false = { m with state := .settling, since := some now } := by
  simp [Marker.report, differs]

theorem Marker.report_active (differs : m.level? ≠ some true) :
    m.report units now true
      = { state := .active, since := none, lastPulse := if m.pulses units now then some now else m.lastPulse } := by
  simp [Marker.report, differs]

theorem Marker.not_pulses_of_active (same : m.level? = some true) : m.pulses units now = false := by
  rw [← Bool.not_eq_true]
  exact fun pulses => Marker.level_of_pulses pulses same

end Report

/-! ## One level of a report (R1, R3, R6) -/

section Level

variable (m : MarkerId) (p : Part)

/-- The part with one marker replaced and the road after it. -/
def Part.markerPut (m : MarkerId) (new : Marker) (r : Road) (p : Part) : Part :=
  { p with markers := { p.markers with markers := Table.put p.markers.markers m new }, road := r }

variable {m p}

theorem markerLevel_same {level : Bool} (same : (Table.at p.markers.markers m).level? = some level) :
    markerLevel m level p = p := by
  have quiet : (Table.at p.markers.markers m).reportPulses p.markers.units p.markers.time level = false := by
    cases level
    · rfl
    · simp [Marker.reportPulses, Marker.not_pulses_of_active same]
  simp [markerLevel, quiet, Marker.report_same same]

theorem markerLevel_inactive (differs : (Table.at p.markers.markers m).level? ≠ some false) :
    markerLevel m false p = p.markerPut m
      { Table.at p.markers.markers m with state := .settling, since := some p.markers.time } p.road := by
  simp [markerLevel, Marker.reportPulses, Marker.report_inactive differs, Part.markerPut]

theorem markerLevel_early (differs : (Table.at p.markers.markers m).level? ≠ some true)
    (early : (Table.at p.markers.markers m).pulses p.markers.units p.markers.time = false) :
    markerLevel m true p
      = p.markerPut m { Table.at p.markers.markers m with state := .active, since := none } p.road := by
  simp [markerLevel, Marker.reportPulses, early, Marker.report_active differs, Part.markerPut]

theorem markerLevel_pulse (pulses : (Table.at p.markers.markers m).pulses p.markers.units p.markers.time = true) :
    markerLevel m true p = p.markerPut m { state := .active, since := none, lastPulse := some p.markers.time }
      (reviewHalts p.cells p.drivers (roadPulse m p.markers.time p.road)) := by
  simp [markerLevel, Marker.reportPulses, pulses, Marker.report_active (Marker.level_of_pulses pulses), markerPulse_part,
    Part.markerPut]

/-- A report of one marker leaves the others. -/
theorem markerLevel_others (level : Bool) {n : MarkerId} (other : n ≠ m) :
    Table.at (markerLevel m level p).markers.markers n = Table.at p.markers.markers n := by
  cases level
  · by_cases same : (Table.at p.markers.markers m).level? = some false
    · rw [markerLevel_same same]
    · simp [markerLevel_inactive same, Part.markerPut, other]
  · by_cases same : (Table.at p.markers.markers m).level? = some true
    · rw [markerLevel_same same]
    · cases pulses : (Table.at p.markers.markers m).pulses p.markers.units p.markers.time
      · simp [markerLevel_early same pulses, Part.markerPut, other]
      · simp [markerLevel_pulse pulses, Part.markerPut, other]

end Level

/-! ## A board report (R1, R213) -/

theorem boardReport_unknown {board : Byte} (levels : Byte) (p : Part) (unknown : 12 ≤ board.toNat) :
    boardReport board levels p = p := by
  rw [boardReport, if_neg (by omega)]

theorem boardReport_eq {board : Byte} (levels : Byte) (p : Part) {ms : Fin 8 → MarkerId}
    (named : ∀ k, (ms k).val = 8 * board.toNat + k.val) :
    boardReport board levels p = (List.finRange 8).foldl (fun p k => markerLevel (ms k) (levels.getLsbD k.val) p) p := by
  have known : board.toNat < 12 := by
    have last := (ms 7).isLt
    rw [named] at last
    have : (7 : Fin 8).val = 7 := rfl
    omega
  have found (k : Fin 8) : index? 96 (8 * board.toNat + k.val) = some (ms k) := by rw [← named, index?_val]
  simp only [boardReport, if_pos known, found]

/-- A fold in which one step alone does anything. -/
theorem foldl_single {α β : Type} {f : β → α → β} {k : α} {b : β} : ∀ {xs : List α}, k ∈ xs → xs.Nodup →
    (∀ j ∈ xs, j ≠ k → f b j = b) → (∀ j ∈ xs, j ≠ k → f (f b k) j = f b k) → xs.foldl f b = f b k
  | x :: xs, listed, nodup, before, after => by
    have stays (ys : List α) (ends : ∀ j ∈ ys, f (f b k) j = f b k) : ys.foldl f (f b k) = f b k := by
      induction ys with
      | nil => rfl
      | cons y ys ih =>
        rw [List.foldl_cons, ends y List.mem_cons_self]
        exact ih fun j hj => ends j (List.mem_cons_of_mem _ hj)
    obtain ⟨fresh, nodup⟩ := List.nodup_cons.mp nodup
    rw [List.foldl_cons]
    by_cases same : x = k
    · subst same
      exact stays xs fun j hj => after j (List.mem_cons_of_mem _ hj) fun same => fresh (same ▸ hj)
    · rw [before x List.mem_cons_self same]
      refine foldl_single ((List.mem_cons.mp listed).resolve_left fun h => same h.symm) nodup ?_ ?_
      · exact fun j hj => before j (List.mem_cons_of_mem _ hj)
      · exact fun j hj => after j (List.mem_cons_of_mem _ hj)

/-- A report in which every other level is as stored is a report of one level. -/
theorem boardReport_single {board : Byte} {levels : Byte} {p : Part} {m : MarkerId} {k : Fin 8}
    (named : m.val = 8 * board.toNat + k.val)
    (stored : ∀ (n : MarkerId) (j : Fin 8), n.val = 8 * board.toNat + j.val → n ≠ m →
      (Table.at p.markers.markers n).level? = some (levels.getLsbD j.val)) :
    boardReport board levels p = markerLevel m (levels.getLsbD k.val) p := by
  have known : board.toNat < 12 := by have := m.isLt; omega
  let ms (j : Fin 8) : MarkerId := ⟨8 * board.toNat + j.val, by omega⟩
  have isM : ms k = m := Fin.ext named.symm
  have differ {j : Fin 8} (other : j ≠ k) : ms j ≠ m := fun same => other (Fin.ext (by
    have := congrArg Fin.val same
    change 8 * board.toNat + j.val = m.val at this
    omega))
  rw [boardReport_eq levels p (ms := ms) fun _ => rfl, foldl_single (List.mem_finRange k) (List.nodup_finRange 8), isM]
  · exact fun j _ other => markerLevel_same (stored (ms j) j rfl (differ other))
  · intro j _ other
    refine markerLevel_same ?_
    rw [isM, markerLevel_others _ (differ other)]
    exact stored (ms j) j rfl (differ other)

/-! ## SMK and the times of the scanner -/

theorem answerSmk_fits {ms : Nat} {p : Part} (low : 20 ≤ ms) (high : ms ≤ 500) (whole : ms % 10 = 0) :
    answerSmk [b8 (ms / 256), b8 ms] p = accept { p with markers := { p.markers with
      holdOff := ms, markers := Table.mapAll (fun _ v => v.retest (ms / 10) p.markers.time) p.markers.markers } } := by
  simp [answerSmk, smk, halfOf_bytes (by omega : ms < 65536), low, high, whole]

theorem answerSmk_misfit {ms : Nat} {p : Part} (small : ms < 65536) (misfit : ms < 20 ∨ 500 < ms ∨ ms % 10 ≠ 0) :
    answerSmk [b8 (ms / 256), b8 ms] p = refuse .badVal p := by
  have unfit : (decide (20 ≤ ms) && decide (ms ≤ 500) && decide (ms % 10 = 0)) = false := by
    rw [← Bool.not_eq_true, Bool.and_eq_true, Bool.and_eq_true, decide_eq_true_eq, decide_eq_true_eq, decide_eq_true_eq]
    omega
  simp only [answerSmk, smk, halfOf_bytes small, unfit]
  rfl

/-- Settles O27. -/
theorem markersWaitTheHoldOff : Obligations.MarkersWaitTheHoldOff := by
  refine ⟨fun ms tag s ready small => ⟨fun low high whole => ?smk, fun misfit => ?misfit⟩, fun m s running => ?expiry,
    fun s running => quietEvent_running running _⟩
  case smk =>
    refine ⟨_, exec_answers ready (answerSmk_fits low high whole) rfl rfl, rfl, rfl, fun m => ?_⟩
    rw [Table.at_mapAll, Marker.retest_eq, Marker.waited_eq]
  case misfit => exact exec_answers ready (answerSmk_misfit small misfit) rfl rfl
  case expiry =>
    have event : exec (.holdOffExpiry m) s = .next (s.onPart (holdOffExpiry m)) := quietEvent_running running _
    rw [event, State.onPart, holdOffExpiry, Table.upd, Marker.expiry_eq]
    rfl

end Sys2Proof.Machine
end

section
/-! A pulse in the sections (R16 to R19). -/

namespace Sys2Proof.Machine

/-! ## Which sections take a pulse -/

theorem SectionStatus.inService_iff (st : SectionStatus) (h : Holding) :
    st.inService = some h ↔ st = .granted h ∨ st = .occupied h := by
  cases st <;> simp [SectionStatus.inService]

theorem SectionStatus.inService_none_iff (st : SectionStatus) :
    st.inService = none ↔ st = .undefined ∨ st = .free ∨ (∃ k, st = .out k) ∨ ∃ k h, st = .fault k h := by
  cases st <;> simp [SectionStatus.inService]

theorem Section.takes_iff (m : MarkerId) (v : Section) :
    v.takes m = true ↔ ∃ h d, (v.status = .granted h ∨ v.status = .occupied h) ∧ v.defn = some d
      ∧ (d.entryMarker h.dir = some m ∨ d.exitMarker h.dir = some m) := by
  simp only [← SectionStatus.inService_iff, Section.takes]
  cases v.status.inService with
  | none => simp
  | some h =>
    cases v.defn with
    | none => simp
    | some d => simp

theorem Road.taken_iff (r : Road) (m : MarkerId) : r.taken m = true ↔ ∃ j, (r.sect j).takes m = true := by
  simp only [Road.taken, List.any_eq_true, Table.mem_entries, Road.sect]
  constructor
  · rintro ⟨⟨j, v⟩, entry, takes⟩
    exact ⟨j, entry ▸ takes⟩
  · rintro ⟨j, takes⟩
    exact ⟨(j, Table.at r.sections j), rfl, takes⟩

theorem Road.at_pulsed (r : Road) (m : MarkerId) (time : Half) (i : SectionId) :
    Table.at (r.pulsed m time) i = r.pulsedSection (r.taken m) m time (r.sect i) := Table.at_mapAll _ _ _

/-! ## Counting out (R18) -/

section CountOut

variable {members : Nat} {was : SectionStatus} {h : Holding}

theorem Holding.countOut_last (inside : h.exited < h.entered) (last : h.exited + 1 = members) :
    h.countOut members was = .free := by
  simp only [Holding.countOut, if_pos inside, if_pos last]

theorem Holding.countOut_more (inside : h.exited < h.entered) (more : h.exited + 1 ≠ members)
    (held : was = .granted h ∨ was = .occupied h) :
    h.countOut members was = if was = .granted h then .granted { h with exited := h.exited + 1 }
      else .occupied { h with exited := h.exited + 1 } := by
  rcases held with rfl | rfl <;> simp [Holding.countOut, inside, more]

theorem Holding.countOut_outside (outside : h.entered ≤ h.exited) :
    h.countOut members was = .fault .countUnder (some h) := by
  simp only [Holding.countOut, if_neg (Nat.not_lt.mpr outside)]

end CountOut

/-! ## What a pulse makes of one section -/

section Pulsed

variable {r : Road} {m : MarkerId} {time : Half} {i : SectionId}

/-- A section that neither takes the pulse nor is FREE stays. -/
theorem Road.pulsed_of_untouched (idle : (r.sect i).takes m = false)
    (noStray : r.taken m = true ∨ (r.sect i).strays m = false) : Table.at (r.pulsed m time) i = r.sect i := by
  have untouched : (!r.taken m && (r.sect i).strays m) = false := by
    rcases noStray with h | h <;> simp [h]
  rw [Road.at_pulsed, Road.pulsedSection, idle, untouched]
  rfl

theorem Section.strays_of_not_free (busy : (r.sect i).status ≠ .free) : (r.sect i).strays m = false := by
  simp [Section.strays, busy]

theorem Road.pulsed_of_stray (untaken : r.taken m = false) (stray : (r.sect i).strays m = true) :
    Table.at (r.pulsed m time) i = { r.sect i with status := .fault .stray none, earmark := none } := by
  have idle : (r.sect i).takes m = false := by
    rw [← Bool.not_eq_true]
    exact fun takes => by simp [(r.taken_iff m).mpr ⟨i, takes⟩] at untaken
  rw [Road.at_pulsed, Road.pulsedSection, idle, untaken, stray]
  rfl

variable {h : Holding} {d : SectionDef} (held : (r.sect i).status = .granted h ∨ (r.sect i).status = .occupied h)
  (defn : (r.sect i).defn = some d)
include held defn

theorem Road.pulsed_of_taken (takes : d.entryMarker h.dir = some m ∨ d.exitMarker h.dir = some m) :
    Table.at (r.pulsed m time) i = { r.sect i with
      status := if d.entryMarker h.dir = some m then h.countIn (r.convoy h.convoy).memberCount time
                else h.countOut (r.convoy h.convoy).memberCount (r.sect i).status } := by
  have inService := ((r.sect i).status.inService_iff h).mpr held
  have members : r.holderMembers (r.sect i) = (r.convoy h.convoy).memberCount := by
    rcases held with held | held <;> simp [Road.holderMembers, held, SectionStatus.holding]
  have takes' := (Section.takes_iff m _).mpr ⟨h, d, held, defn, takes⟩
  rw [Road.at_pulsed, Road.pulsedSection, if_pos takes', members]
  by_cases entry : d.entryMarker h.dir = some m
  · simp only [Section.counted, inService, defn, if_pos entry]
  · simp only [Section.counted, inService, defn, if_neg entry, if_pos (takes.resolve_left entry)]

theorem Road.pulsed_of_elsewhere (entry : d.entryMarker h.dir ≠ some m) (exit : d.exitMarker h.dir ≠ some m) :
    Table.at (r.pulsed m time) i = r.sect i := by
  have inService := ((r.sect i).status.inService_iff h).mpr held
  refine Road.pulsed_of_untouched ?_ (.inr (Section.strays_of_not_free ?_))
  · simp [Section.takes, inService, defn, entry, exit]
  · rcases held with held | held <;> simp [held]

end Pulsed

/-- Settles O29, by what takes the pulse. -/
theorem pulsesCountThePassage : Obligations.PulsesCountThePassage := by
  intro r m time i
  have taken_iff : r.taken m = true ↔ ∃ j h d, ((r.sect j).status = .granted h ∨ (r.sect j).status = .occupied h)
      ∧ (r.sect j).defn = some d ∧ (d.entryMarker h.dir = some m ∨ d.exitMarker h.dir = some m) := by
    simp only [Road.taken_iff, Section.takes_iff]
  refine ⟨fun h d held defn => ⟨fun entry => ⟨fun room => ?countedIn, fun full => ?tooMany⟩, fun notEntry exit =>
    ⟨fun inside last => ?freed, fun inside more => ?countedOut, fun outside => ?tooFew⟩,
    fun notEntry notExit => Road.pulsed_of_elsewhere held defn notEntry notExit⟩, fun d free defn =>
    ⟨fun names untaken => ?stray, fun quiet => ?quiet⟩, fun unheld => ?unheld⟩
  case countedIn => rw [Road.pulsed_of_taken held defn (.inl entry), if_pos entry, Holding.countIn, if_pos room]
  case tooMany => rw [Road.pulsed_of_taken held defn (.inl entry), if_pos entry, Holding.countIn, if_neg (by omega)]
  case freed =>
    rw [Road.pulsed_of_taken held defn (.inr exit), if_neg notEntry, Holding.countOut_last inside last]
  case countedOut =>
    rw [Road.pulsed_of_taken held defn (.inr exit), if_neg notEntry, Holding.countOut_more inside more held]
  case tooFew =>
    rw [Road.pulsed_of_taken held defn (.inr exit), if_neg notEntry, Holding.countOut_outside outside]
  case stray =>
    refine Road.pulsed_of_stray ?_ (by simp [Section.strays, free, defn, names])
    rw [← Bool.not_eq_true, taken_iff]
    exact fun ⟨j, takes⟩ => untaken j takes
  case quiet =>
    refine Road.pulsed_of_untouched ?_ ?_
    · rw [← Bool.not_eq_true, Section.takes_iff]
      rintro ⟨h, d, held, -⟩
      rw [free] at held
      simp at held
    · exact quiet.symm.imp taken_iff.mpr fun unnamed => by simp [Section.strays, defn, unnamed]
  case unheld =>
    refine Road.pulsed_of_untouched ?_ (.inr (Section.strays_of_not_free ?_))
    · rw [← Bool.not_eq_true, Section.takes_iff]
      rintro ⟨h, d, held, -⟩
      rcases unheld with unheld | ⟨k, unheld⟩ | ⟨k, h, unheld⟩ <;> simp [unheld] at held
    · rcases unheld with unheld | ⟨k, unheld⟩ | ⟨k, h, unheld⟩ <;> simp [unheld]

end Sys2Proof.Machine
end

section
/-! The settling of grants (R38, R39, R63). -/

namespace Sys2Proof.Machine

/-! ## The settled report (R63) -/

theorem Convoy.restatus_eq (v : Convoy) (first last : Nat) (a b : StepStatus) :
    v.restatus first last a b = ({ v with route := v.route.mapIdx fun n u =>
      if first ≤ n ∧ n ≤ last ∧ u.status = a then { u with status := b } else u } : Convoy).reindex := by
  rw [Convoy.restatus, Convoy.mapSteps_eq_mapIdx]
  simp only [Bool.and_eq_true, decide_eq_true_eq, and_assoc]

theorem Convoy.mayRun_eq (v : Convoy) : v.mayRun = (v.route[v.lead + 1]?).all fun u => decide (u.status = .held) := by
  rw [Convoy.mayRun, Convoy.nextStatus_eq]
  cases v.route[v.lead + 1]? <;> rfl

/-- The convoy after the settled report of a record (R63). -/
theorem Convoy.settled_eq (v : Convoy) (first last : Nat) :
    v.settled first last =
      let w := ({ v with route := v.route.mapIdx fun n u =>
        if first ≤ n ∧ n ≤ last ∧ u.status = .settling then { u with status := .held } else u } : Convoy).reindex
      if (w.route[w.lead + 1]?).all fun u => u.status = .held then
        { w with state := w.state.mapBase fun b => if b = .waiting then .running else b } else w := by
  rw [Convoy.settled, Convoy.restatus_eq, Convoy.runIfClear, Convoy.mayRun_eq]

theorem settledFold_eq (ts : List SettlingRecord) (v : Convoy) :
    ts.foldl (fun v t => v.settled t.first t.last) v
      = ts.foldl (fun (v : Convoy) (t : SettlingRecord) =>
          let w := ({ v with route := v.route.mapIdx fun n u =>
            if t.first ≤ n ∧ n ≤ t.last ∧ u.status = .settling then { u with status := .held } else u } : Convoy).reindex
          if (w.route[w.lead + 1]?).all fun u => u.status = .held then
            { w with state := w.state.mapBase fun b => if b = .waiting then .running else b } else w) v :=
  congrArg (fun f => List.foldl f v ts) (funext fun v => funext fun t => v.settled_eq t.first t.last)

/-! ## The review of the settling records (R39) -/

/-- The settled reports of some records, as one convoy takes them. -/
theorem settledReports_convoy (ts : List SettlingRecord) (r : Road) (c : ConvoyId) :
    (ts.foldl (fun r t => settledReport t.convoy t.first t.last r) r).convoy c
      = (ts.filter fun t => decide (t.convoy = c)).foldl (fun v t => v.settled t.first t.last) (r.convoy c) := by
  induction ts generalizing r with
  | nil => rfl
  | cons t ts ih =>
    rw [List.foldl_cons, ih, settledReport]
    by_cases own : t.convoy = c
    · subst own
      simp
    · have other : c ≠ t.convoy := fun same => own same.symm
      simp [own, other]

theorem settledReports_rest (ts : List SettlingRecord) (r : Road) :
    ts.foldl (fun r t => settledReport t.convoy t.first t.last r) r
      = { r with convoys := (ts.foldl (fun r t => settledReport t.convoy t.first t.last r) r).convoys } := by
  induction ts generalizing r with
  | nil => rfl
  | cons t ts ih =>
    rw [List.foldl_cons, ih]
    rfl

theorem reviewSettling_rest (r : Road) :
    reviewSettling r = { r with settling := r.settling.filter fun t => t.sections.any r.timerRuns,
                                convoys := (reviewSettling r).convoys } := by
  rw [reviewSettling, settledReports_rest]

theorem reviewSettling_convoy (r : Road) (c : ConvoyId) :
    (reviewSettling r).convoy c
      = (r.settling.filter fun t => decide (t.convoy = c) && decide (t.sections ≠ []) && !t.sections.any r.timerRuns).foldl
          (fun v t => v.settled t.first t.last) (r.convoy c) := by
  rw [reviewSettling, settledReports_convoy, List.filter_filter]
  refine congrArg (List.foldl (fun (v : Convoy) (t : SettlingRecord) => v.settled t.first t.last) (r.convoy c))
    (List.filter_congr fun t _ => ?_)
  cases t.sections <;> simp

/-! ## The timers -/

theorem stopTimer_timerRuns (i : SectionId) (r : Road) (j : SectionId) :
    (stopTimer i r).timerRuns j = (decide (j ≠ i) && (r.sect j).settle.isSome) := by
  by_cases same : j = i
  · subst same
    simp [stopTimer, Road.timerRuns]
  · simp [stopTimer, Road.timerRuns, same]

theorem stopTimers_rest (secs : List SectionId) (r : Road) :
    secs.foldl (fun r i => stopTimer i r) r
      = { r with sections := (secs.foldl (fun r i => stopTimer i r) r).sections } := by
  induction secs generalizing r with
  | nil => rfl
  | cons i secs ih =>
    rw [List.foldl_cons, ih]
    rfl

theorem stopTimers_sect (secs : List SectionId) (r : Road) (j : SectionId) :
    (secs.foldl (fun r i => stopTimer i r) r).sect j
      = if j ∈ secs then { r.sect j with settle := none } else r.sect j := by
  induction secs generalizing r with
  | nil => simp
  | cons i secs ih =>
    rw [List.foldl_cons, ih, stopTimer, Road.sect_setSect]
    by_cases first : j = i
    · subst first
      simp
    · simp [first]

/-- The records after the sections have left them. -/
def Road.reduced (secs : List SectionId) (r : Road) : List SettlingRecord :=
  r.settling.map fun t => { t with sections := t.sections.filter fun j => decide (j ∉ secs) }

theorem leaveRecords_eq (secs : List SectionId) (r : Road) :
    leaveRecords secs r = { r with sections := (secs.foldl (fun r i => stopTimer i r) r).sections,
                                   settling := r.reduced secs } := by
  have left (t : SettlingRecord) : (t.sections.filter fun i => !secs.contains i)
      = t.sections.filter fun j => decide (j ∉ secs) := by simp
  simp only [leaveRecords, Road.reduced, left]
  rw [stopTimers_rest]

theorem leaveRecords_sect (secs : List SectionId) (r : Road) (j : SectionId) :
    (leaveRecords secs r).sect j = if j ∈ secs then { r.sect j with settle := none } else r.sect j := by
  rw [leaveRecords_eq]
  exact stopTimers_sect secs r j

/-- A reduced record names no section that has left, so its timers run as they did. -/
theorem leaveRecords_runs {secs : List SectionId} {r : Road} {t : SettlingRecord} (reduced : t ∈ r.reduced secs) :
    t.sections.any (leaveRecords secs r).timerRuns = t.sections.any fun j => (r.sect j).settle.isSome := by
  obtain ⟨u, -, rfl⟩ := List.mem_map.mp reduced
  rw [Bool.eq_iff_iff, List.any_eq_true, List.any_eq_true]
  refine exists_congr fun j => and_congr_right fun listed => ?_
  have stays : j ∉ secs := of_decide_eq_true (List.mem_filter.mp listed).2
  rw [Road.timerRuns, leaveRecords_sect, if_neg stays]

/-- Settles O30. -/
theorem settleTimersEnd : Obligations.SettleTimersEnd := by
  refine ⟨fun i s quiet => ⟨fun stopped => ?stopped, fun runs => ?expired⟩,
    fun secs r => ⟨fun j => ?sections, ?settling, fun c => ?convoys, ?rest⟩⟩
  case stopped =>
    have idle : settleTimerExpiry i s.part = s.part := by simp [settleTimerExpiry, Road.timerRuns, stopped]
    have event : exec (.settleTimerExpiry i) s = .next (transmit (s.onPart (settleTimerExpiry i))) := partEvent_quiet quiet _
    rw [event, State.onPart, idle]
  case expired =>
    have ends : settleTimerExpiry i s.part = { s.part with road := reviewSettling (stopTimer i s.part.road) } := by
      simp [settleTimerExpiry, Road.timerRuns, runs, Part.onRoad_eq]
    have event : exec (.settleTimerExpiry i) s = .next (transmit (s.onPart (settleTimerExpiry i))) := partEvent_quiet quiet _
    have timers : (stopTimer i s.part.road).timerRuns = fun j => decide (j ≠ i) && (s.part.road.sect j).settle.isSome :=
      funext fun j => stopTimer_timerRuns i s.part.road j
    rw [event, State.onPart, ends]
    refine ⟨_, rfl, ?_, ?_, fun c => ?_, ?_⟩
    · rw [reviewSettling_rest]
      rfl
    · rw [reviewSettling_rest, timers]
      rfl
    · rw [reviewSettling_convoy, timers]
      exact settledFold_eq _ _
    · rw [reviewSettling_rest]
      rfl
  all_goals dsimp only [leaveHolder]
  case sections =>
    rw [reviewSettling_rest]
    exact leaveRecords_sect secs r j
  case settling =>
    rw [reviewSettling_rest, leaveRecords_eq]
    refine List.filter_congr fun t reduced => ?_
    rw [← leaveRecords_eq]
    exact leaveRecords_runs reduced
  case convoys =>
    rw [reviewSettling_convoy]
    refine Eq.trans ?_ (settledFold_eq _ _)
    have records : (leaveRecords secs r).settling = r.reduced secs := by rw [leaveRecords_eq]
    have convoy : (leaveRecords secs r).convoy c = r.convoy c := by rw [leaveRecords_eq]; rfl
    rw [records, convoy]
    refine congrArg (List.foldl (fun (v : Convoy) (t : SettlingRecord) => v.settled t.first t.last) (r.convoy c))
      (List.filter_congr fun t reduced => ?_)
    rw [leaveRecords_runs reduced]
  case rest =>
    rw [reviewSettling_rest, leaveRecords_eq]

end Sys2Proof.Machine
end

section
/-! A marker pulse on the road: what it tells the notices and the convoy engine (R16 to R20). -/

namespace Sys2Proof.Machine

/-! ## The sections a pulse changes -/

/-- The holding after one more member has been counted in (R17). -/
def Holding.next (time : Half) (h : Holding) : Holding :=
  { h with entered := h.entered + 1, log := h.log ++ [{ member := h.entered + 1, time := time }] }

@[simp] theorem SectionStatus.inService_occupied (h : Holding) : (SectionStatus.occupied h).inService = some h := rfl
@[simp] theorem SectionStatus.inService_free : SectionStatus.free.inService = none := rfl
@[simp] theorem SectionStatus.inService_fault (k : FaultCause) (h : Option Holding) :
    (SectionStatus.fault k h).inService = none := rfl

section Pulsed

variable {r : Road} {m : MarkerId} {time : Half} {i : SectionId}

theorem Section.takes_of_unserved {v : Section} (none : v.status.inService = none) : v.takes m = false := by
  simp [Section.takes, none]

/-- A section that is neither held in service nor FREE stays. -/
theorem Road.pulsed_of_unserved (none : (r.sect i).status.inService = none) (busy : (r.sect i).status ≠ .free) :
    Table.at (r.pulsed m time) i = r.sect i :=
  Road.pulsed_of_untouched (Section.takes_of_unserved none) (.inr (Section.strays_of_not_free busy))

/-- The states a pulse can leave a section in that was held in service: a member more in, released, the same count of members
in, or a fault. -/
theorem Road.pulsed_status {h : Holding} (held : (r.sect i).status.inService = some h) :
    (Table.at (r.pulsed m time) i).status = .occupied (h.next time) ∨ (Table.at (r.pulsed m time) i).status = .free
      ∨ (∃ g, (Table.at (r.pulsed m time) i).status.inService = some g ∧ g.entered = h.entered)
      ∨ ∃ k, (Table.at (r.pulsed m time) i).status = .fault k (some h) := by
  have service := ((r.sect i).status.inService_iff h).mp held
  by_cases taken : ∃ d, (r.sect i).defn = some d ∧ (d.entryMarker h.dir = some m ∨ d.exitMarker h.dir = some m)
  · obtain ⟨d, defn, takes⟩ := taken
    rw [Road.pulsed_of_taken service defn takes]
    dsimp only
    split
    next =>
      unfold Holding.countIn
      split
      · exact .inl rfl
      · exact .inr (.inr (.inr ⟨_, rfl⟩))
    next =>
      by_cases inside : h.exited < h.entered
      · by_cases last : h.exited + 1 = (r.convoy h.convoy).memberCount
        · exact .inr (.inl (Holding.countOut_last inside last))
        · rw [Holding.countOut_more inside last service]
          refine .inr (.inr (.inl ⟨{ h with exited := h.exited + 1 }, ?_, rfl⟩))
          split <;> rfl
      · exact .inr (.inr (.inr ⟨_, Holding.countOut_outside (by omega)⟩))
  · have idle : (r.sect i).takes m = false := by
      rw [← Bool.not_eq_true, Section.takes_iff]
      rintro ⟨g, d, own, defn, takes⟩
      have same : some g = some h := by rw [← held, ((r.sect i).status.inService_iff g).mpr own]
      cases same
      exact taken ⟨d, defn, takes⟩
    have busy : (r.sect i).status ≠ .free := by rcases service with h | h <;> simp [h]
    rw [Road.pulsed_of_untouched idle (.inr (Section.strays_of_not_free busy))]
    exact .inr (.inr (.inl ⟨h, held, rfl⟩))

theorem Road.released_iff :
    (releasedFrom (r.sect i) (Table.at (r.pulsed m time) i)).isSome
      = (decide ((r.sect i).status ≠ .free) && decide ((Table.at (r.pulsed m time) i).status = .free)) := by
  cases held : (r.sect i).status.inService with
  | some h =>
    have busy : (r.sect i).status ≠ .free := by
      rcases ((r.sect i).status.inService_iff h).mp held with h | h <;> simp [h]
    simp only [releasedFrom, held]
    by_cases free : (Table.at (r.pulsed m time) i).status = .free <;> simp [free, busy]
  | none =>
    simp only [releasedFrom, held]
    by_cases free : (r.sect i).status = .free
    · simp [free]
    · rw [Road.pulsed_of_unserved held free]
      simp [free]

/-- A pulse takes an earmark from a section only where it makes the section a stray's. -/
theorem Road.pulsed_earmark :
    (Table.at (r.pulsed m time) i).earmark
      = if (decide ((Table.at (r.pulsed m time) i).status = .fault .stray none) && !(r.sect i).status.isFault) = true
        then none else (r.sect i).earmark := by
  cases held : (r.sect i).status.inService with
  | some h =>
    have kept : (Table.at (r.pulsed m time) i).earmark = (r.sect i).earmark := by
      have busy : (r.sect i).status ≠ .free := by
        rcases ((r.sect i).status.inService_iff h).mp held with h | h <;> simp [h]
      rw [Road.at_pulsed, Road.pulsedSection, Section.strays_of_not_free busy, Bool.and_false]
      by_cases takes : (r.sect i).takes m = true
      · rw [if_pos takes]
      · rw [if_neg takes]
        rfl
    have noStray : (Table.at (r.pulsed m time) i).status ≠ .fault .stray none := by
      rcases Road.pulsed_status (m := m) (time := time) held with st | st | ⟨g, st, -⟩ | ⟨k, st⟩
      · simp [st]
      · simp [st]
      · intro h
        rw [h] at st
        cases st
      · simp [st]
    simp [noStray, kept]
  | none =>
    by_cases free : (r.sect i).status = .free
    · by_cases stray : r.taken m = false ∧ (r.sect i).strays m = true
      · rw [Road.pulsed_of_stray stray.1 stray.2]
        simp [free, SectionStatus.isFault]
      · rw [Road.pulsed_of_untouched (Section.takes_of_unserved held) (by grind)]
        simp [free]
    · rw [Road.pulsed_of_unserved held free]
      cases st : (r.sect i).status <;> simp [SectionStatus.isFault]

/-! ## The report of a section to the engine (R20) -/

variable {x : Road}

theorem pulseReport_unheld (unheld : (r.sect i).status.holding = none) :
    pulseReport r (r.pulsed m time) time i x = x := by
  have unserved : (r.sect i).status.inService = none := by
    cases st : (r.sect i).status <;> simp_all [SectionStatus.holding, SectionStatus.inService]
  simp [pulseReport, countedIn, releasedFrom, unserved]

theorem pulseReport_held {h : Holding} (held : (r.sect i).status.holding = some h) :
    pulseReport r (r.pulsed m time) time i x
      = if (Table.at (r.pulsed m time) i).status = .occupied (h.next time)
        then entryReport (r.convoy h.convoy) h.convoy i (h.entered + 1) time x
        else if (Table.at (r.pulsed m time) i).status = .free then releaseReport h.convoy i x else x := by
  cases service : (r.sect i).status.inService with
  | none =>
    obtain ⟨k, fault⟩ : ∃ k, (r.sect i).status = .fault k (some h) := by
      cases st : (r.sect i).status <;> simp_all [SectionStatus.holding, SectionStatus.inService]
    have same := Road.pulsed_of_unserved (m := m) (time := time) service (by simp [fault])
    simp [pulseReport, countedIn, releasedFrom, same, fault]
  | some g =>
    obtain rfl : g = h := by
      rw [SectionStatus.holding_of_inService service] at held
      exact Option.some.inj held
    rcases Road.pulsed_status (m := m) (time := time) service with st | st | ⟨g', st, count⟩ | ⟨k, st⟩
    · simp [pulseReport, countedIn, service, st, Holding.next]
    · simp [pulseReport, countedIn, releasedFrom, service, st]
    · have notFree : (Table.at (r.pulsed m time) i).status ≠ .free := fun h => by rw [h] at st; cases st
      have notNext : (Table.at (r.pulsed m time) i).status ≠ .occupied (g.next time) := fun h => by
        rw [h, SectionStatus.inService_occupied] at st
        cases st
        simp [Holding.next] at count
      simp [pulseReport, countedIn, releasedFrom, service, st, count, notFree, notNext]
    · simp [pulseReport, countedIn, releasedFrom, service, st]

end Pulsed

end Sys2Proof.Machine
end

section
/-! What the convoy engine makes of the reports (R64, R66, R67, R89, R90), and board reports as a whole. -/

namespace Sys2Proof.Machine

/-! ## Raises with a subject set (R197) -/

theorem getLsbD_subjectsOf (ks : List Nat) (b : Nat) : (subjectsOf ks).getLsbD b = decide (b < 64 ∧ b ∈ ks) := by
  have fold (us : BitVec 64) : (ks.foldl (fun m k => m ||| subject k) us).getLsbD b
      = (us.getLsbD b || decide (b < 64 ∧ b ∈ ks)) := by
    induction ks generalizing us with
    | nil => simp
    | cons k ks ih =>
      rw [List.foldl_cons, ih, BitVec.getLsbD_or, subject, BitVec.getLsbD_twoPow]
      rw [Bool.or_assoc, Bool.eq_iff_iff]
      simp only [Bool.or_eq_true, Bool.and_eq_true, decide_eq_true_eq, List.mem_cons]
      grind
  rw [subjectsOf, fold]
  simp

theorem subjectsOf_single (k : Nat) : subjectsOf [k] = subject k := by simp [subjectsOf]

theorem Road.raiseAll_nil (src : SourceId) (r : Road) : r.raiseAll src [] = r := rfl

theorem Road.raiseAll_of_ne {ks : List Nat} (some : ks ≠ []) (src : SourceId) (r : Road) :
    r.raiseAll src ks = { r with notices := { r.notices with
      sources := Table.put r.notices.sources src
        ((Table.at r.notices.sources src).raised (subjectsOf ks)) } } := by
  rw [Road.raiseAll, if_neg (by simpa using some)]
  rfl

/-! ## The lead (R64) -/

section Lead

variable {c : ConvoyId} {r : Road}

theorem leadChecks_of_clear (next : (r.convoy c).nextStatus = none ∨ (r.convoy c).nextStatus = some .held) :
    leadChecks c r = r := by
  rcases next with next | next <;> simp only [leadChecks, next]

theorem leadChecks_of_ahead (next : (r.convoy c).nextStatus = some .ahead) :
    leadChecks c r = if (r.convoy c).state.active then ask c ((r.convoy c).lead + 1) (r.updConvoy c (setBase stopRunning))
      else r := by
  simp only [leadChecks, next]

theorem leadChecks_of_blocked {st : StepStatus} (next : (r.convoy c).nextStatus = some st) (notHeld : st ≠ .held)
    (notAhead : st ≠ .ahead) : leadChecks c r = r.updConvoy c (setBase stopRunning) := by
  cases st <;> first | exact absurd rfl notHeld | exact absurd rfl notAhead | simp only [leadChecks, next]

/-- The lead rises to the first held step where the convoy holds nothing behind it (R67). -/
theorem raiseLead_of_ahead {n : Nat} {t : RouteStep} (step : (r.convoy c).route[n]? = some t)
    (held : t.status = .settling ∨ t.status = .held) (ahead : (r.convoy c).lead < n)
    (first : ∀ k < n, ¬ ∃ t : RouteStep, (r.convoy c).route[k]? = some t ∧ (t.status = .settling ∨ t.status = .held)) :
    raiseLead c r = arrivalTestAt c n (leadChecks c (r.setConvoy c ((r.convoy c).setLead n))) := by
  have listed : n ∈ (r.convoy c).stepNumbers RouteStep.isHeld :=
    ((r.convoy c).mem_stepNumbers _ _).mpr ⟨t, step, t.isHeld_iff.mpr held⟩
  have sorted : ((r.convoy c).stepNumbers RouteStep.isHeld).Pairwise (· < ·) := stepNumbersFrom_sorted _ _ 0
  cases numbers : (r.convoy c).stepNumbers RouteStep.isHeld with
  | nil => rw [numbers] at listed; cases listed
  | cons k rest =>
    have least : k = n := by
      rw [numbers] at listed sorted
      rcases List.mem_cons.mp listed with same | later
      · exact same.symm
      · obtain ⟨u, at_k, held_k⟩ := ((r.convoy c).mem_stepNumbers RouteStep.isHeld k).mp (numbers ▸ List.mem_cons_self)
        exact absurd ⟨u, at_k, u.isHeld_iff.mp held_k⟩ (first k (List.rel_of_pairwise_cons sorted later))
    simp only [raiseLead, numbers, least, if_pos ahead]
    rfl

theorem raiseLead_of_none
    (none : ∀ n : Nat, ¬ ∃ t : RouteStep, (r.convoy c).route[n]? = some t ∧ (t.status = .settling ∨ t.status = .held)) :
    raiseLead c r = r := by
  cases numbers : (r.convoy c).stepNumbers RouteStep.isHeld with
  | nil => simp only [raiseLead, numbers]
  | cons k rest =>
    obtain ⟨t, step, held⟩ := ((r.convoy c).mem_stepNumbers RouteStep.isHeld k).mp (numbers ▸ List.mem_cons_self)
    exact absurd ⟨t, step, t.isHeld_iff.mp held⟩ (none k)

end Lead

/-! ## The arrival test (R66) -/

theorem Road.allArrived_iff (r : Road) (c : ConvoyId) :
    r.allArrived c = true ↔ ∃ t h, (r.convoy c).route[(r.convoy c).route.length - 1]? = some t
      ∧ (r.sect t.sec).status.holding = some h ∧ h.convoy = c ∧ h.entered = (r.convoy c).memberCount := by
  simp only [Road.allArrived, Convoy.lastStep]
  cases (r.convoy c).route[(r.convoy c).route.length - 1]? with
  | none => simp
  | some t =>
    simp only [Option.some.injEq, exists_and_left, exists_eq_left']
    cases (r.sect t.sec).status.holding with
    | none => simp
    | some h => simp

theorem arrivalTest_of_arrived {c : ConvoyId} {r : Road} (arrived : r.allArrived c = true) :
    arrivalTest c r = Road.raiseAll srcConvoyArrived [c.val] ((withdrawAsked c r).setConvoy c
      (setBase (fun _ => .arrived) ((withdrawAsked c r).convoy c))) := by
  rw [arrivalTest, if_pos arrived, Road.raiseAll, subjectsOf_single]
  rfl

theorem arrivalTest_of_away {c : ConvoyId} {r : Road} (away : r.allArrived c = false) : arrivalTest c r = r := by
  rw [arrivalTest, away]
  rfl

theorem arrivalTestAt_eq (c : ConvoyId) (k : Nat) (r : Road) :
    arrivalTestAt c k r = if k + 1 = (r.convoy c).route.length then arrivalTest c r else r := by
  rw [arrivalTestAt_lastStep, Convoy.lastStep]
  by_cases empty : (r.convoy c).route = []
  · have away : r.allArrived c = false := by
      rw [← Bool.not_eq_true, Road.allArrived_iff]
      rintro ⟨t, h, last, -⟩
      rw [empty] at last
      cases last
    simp [arrivalTest_of_away away]
  · have some : 0 < (r.convoy c).route.length := List.length_pos_iff.mpr empty
    by_cases last : k + 1 = (r.convoy c).route.length
    · rw [if_pos last, if_pos (by omega)]
    · rw [if_neg last, if_neg (by omega)]

/-! ## The gap check (R89, R90) -/

theorem clampTrim_eq (t : Int) : clampTrim t = max (-8) (min 8 t) := by
  unfold clampTrim
  split
  · omega
  · split <;> omega

/-- The members after the gap check of the one at position `k - 1`. -/
theorem Convoy.gapChecked_eq {k : Nat} (second : 2 ≤ k) (gap : Nat) (time : Half) (v : Convoy) :
    v.gapChecked k gap time = { v with members := v.members.mapIdx fun n x =>
      if n + 1 = k then { x with
        lastGap := some time,
        trim := max (-8) (min 8 (x.trim + if gap < v.gapMin then -1 else if v.gapMax < gap then 1 else 0)) } else x } := by
  rw [Convoy.gapChecked]
  congr 1
  apply List.ext_getElem?
  intro n
  simp only [List.getElem?_mapIdx, List.getElem?_modify, clampTrim_eq]
  have position : k - 1 = n ↔ n + 1 = k := by omega
  cases v.members[n]? with
  | none => rfl
  | some x =>
    by_cases own : n + 1 = k
    · simp [own, position]
    · simp [own, position]

section Gap

variable {before : Convoy} {c : ConvoyId} {i : SectionId} {member : Nat} {time : Half} {r : Road}

theorem gapCheck_of_checked {h : Holding} {t : Half} (running : before.state = .plain .running)
    (armed : before.halt.rearm = false) (second : 2 ≤ member) (held : (r.sect i).status.holding = some h)
    (ahead : logTime h.log (member - 1) = some t) :
    gapCheck before c i member time r = r.updConvoy c (Convoy.gapChecked member (time - t).toNat time) := by
  simp [gapCheck, running, armed, second, held, ahead]

theorem gapCheck_of_unchecked (unchecked : before.state ≠ .plain .running ∨ before.halt.rearm = true ∨ member < 2
      ∨ (r.sect i).status.holding = none
      ∨ ∃ h, (r.sect i).status.holding = some h ∧ logTime h.log (member - 1) = none) :
    gapCheck before c i member time r = r := by
  unfold gapCheck
  split
  next checked =>
    simp only [Bool.and_eq_true, decide_eq_true_eq, Bool.not_eq_true'] at checked
    obtain ⟨⟨running, armed⟩, second⟩ := checked
    rcases unchecked with h | h | h | h | ⟨h, held, unlogged⟩
    · exact absurd running h
    · rw [armed] at h; cases h
    · omega
    · simp only [h]
    · simp only [held, unlogged]
  next => rfl

end Gap

/-! ## Reports of a section (R20) -/

section Reports

variable {before : Convoy} {c : ConvoyId} {i : SectionId} {member : Nat} {time : Half} {r : Road} {j : Nat}

theorem entryReport_of_unheld (none : (r.convoy c).heldStepOf i = none) : entryReport before c i member time r = r := by
  simp only [entryReport, none]

theorem entryReport_of_held (held : (r.convoy c).heldStepOf i = some j) :
    entryReport before c i member time r = arrivalTestAt c j
      (if member = 1 then if (r.convoy c).lead < j then leadChecks c (r.setConvoy c ((r.convoy c).setLead j)) else r
       else gapCheck before c i member time r) := by
  simp only [entryReport, held, leadEntry]
  rfl

end Reports

/-! ## The pulse as a whole -/

theorem Road.unmarked_iff (r : Road) {m : MarkerId} {time : Half} {i : SectionId} :
    ((r.sect i).earmark.isSome && (Table.at (r.pulsed m time) i).earmark.isNone) = true
      ↔ (decide ((Table.at (r.pulsed m time) i).status = .fault .stray none) && !(r.sect i).status.isFault) = true
        ∧ (r.sect i).earmark.isSome = true := by
  rw [Road.pulsed_earmark]
  generalize (decide ((Table.at (r.pulsed m time) i).status = .fault .stray none) && !(r.sect i).status.isFault) = stray
  cases stray <;> cases (r.sect i).earmark <;> simp

theorem roadPulse_eq (m : MarkerId) (time : Half) (r : Road) :
    let after := fun (i : SectionId) => (Table.at (r.pulsed m time) i).status
    let which := fun (f : SectionStatus → SectionStatus → Bool) =>
      (List.finRange 64).filter fun i => f (r.sect i).status (after i)
    let faults := which fun old new => new.isFault && !old.isFault
    let strays := which fun old new => decide (new = .fault .stray none) && !old.isFault
    let released := which fun old new => decide (old ≠ .free) && decide (new = .free)
    let told := Road.raiseAll srcStrayPulse (strays.map Fin.val) (Road.raiseAll srcSectionFault (faults.map Fin.val)
      (leaveHolder released { r with sections := r.pulsed m time }))
    let reported := (List.finRange 64).foldl (fun x i => pulseReport r (r.pulsed m time) time i x) told
    roadPulse m time r
      = if released = [] ∧ ∀ i ∈ strays, (r.sect i).earmark = none then reported else arbitrate reported := by
  intro after which faults strays released told reported
  have released_eq : changedSections r.sections (r.pulsed m time) (fun b a => (releasedFrom b a).isSome) = released :=
    List.filter_congr fun i _ => Road.released_iff
  have unmarked_iff : (changedSections r.sections (r.pulsed m time) fun b a => b.earmark.isSome && a.earmark.isNone) = []
      ↔ ∀ i ∈ strays, (r.sect i).earmark = none := by
    rw [changedSections, List.filter_eq_nil_iff]
    simp only [List.mem_finRange, true_imp_iff, strays, which, List.mem_filter, true_and]
    refine forall_congr' fun i => ?_
    have unmarked := r.unmarked_iff (m := m) (time := time) (i := i)
    rw [Road.sect, ← Option.not_isSome_iff_eq_none] at *
    tauto
  have passes : roadPulse m time r
      = if released.isEmpty && (changedSections r.sections (r.pulsed m time) fun b a => b.earmark.isSome && a.earmark.isNone).isEmpty
        then reported else arbitrate reported := by
    rw [roadPulse, released_eq]
    rfl
  rw [passes]
  refine if_congr ?_ rfl rfl
  rw [Bool.and_eq_true, List.isEmpty_iff, List.isEmpty_iff, unmarked_iff]

/-! ## Board reports -/

theorem boardReport_quiet {board levels : Byte} {s : State} {q : Part} (quiet : Quiet s)
    (report : boardReport board levels s.part = q) :
    exec (.boardReport board levels) s = .next (transmit { s with part := q }) := by
  have event : exec (.boardReport board levels) s = .next (transmit (s.onPart (boardReport board levels))) :=
    partEvent_quiet quiet _
  rw [event, State.onPart, report]

/-- A report changes the markers and the road alone. -/
theorem boardReport_changes (board levels : Byte) (p : Part) :
    ∃ k r, boardReport board levels p = { p with markers := k, road := r } := by
  refine boardReport_keeps (P := fun q => ∃ k r, q = { p with markers := k, road := r }) ?_ board levels p
    ⟨p.markers, p.road, rfl⟩
  rintro m level q ⟨k, r, rfl⟩
  obtain ⟨k', changed | changed⟩ := markerLevel_part m level { p with markers := k, road := r }
  · exact ⟨k', r, changed⟩
  · exact ⟨k', _, changed⟩

/-- What a pulse leaves of the sections as counted, and of the convoys. -/
theorem roadPulse_kept (m : MarkerId) (time : Half) (cells : Table Cell 8) (drivers : DriverPort) (r : Road) :
    (∀ i, Section.Kept (Table.at (r.pulsed m time) i) ((reviewHalts cells drivers (roadPulse m time r)).sect i))
      ∧ ∀ c, Convoy.Kept (r.convoy c) ((reviewHalts cells drivers (roadPulse m time r)).convoy c) := by
  obtain ⟨released, fs, ss, kept⟩ := roadPulse_road m time r
  have counted := kept_leaveHolder released { r with sections := r.pulsed m time }
  have after := kept.trans (kept_reviewHalts cells drivers (roadPulse m time r))
  obtain ⟨sections, convoys⟩ := Road.raiseAll_sect srcSectionFault fs (leaveHolder released { r with sections := r.pulsed m time })
  obtain ⟨sections', convoys'⟩ := Road.raiseAll_sect srcStrayPulse ss
    ((leaveHolder released { r with sections := r.pulsed m time }).raiseAll srcSectionFault fs)
  refine ⟨fun i => ?_, fun c => ?_⟩
  · have later := after.sections i
    rw [Road.sect, sections', sections] at later
    exact (counted.sections i).trans later
  · have later := after.convoys c
    rw [Road.convoy, convoys', convoys] at later
    exact (counted.convoys c).trans later

/-- Settles O28, conjunct by conjunct. -/
theorem boardReportsMoveTheMarkers : Obligations.BoardReportsMoveTheMarkers := by
  refine ⟨fun board levels s quiet => ⟨?changes, fun unknown => ?unknown, fun m k named stored => ?single⟩,
    fun board levels ms s quiet named => ?fold, fun m level p => ?level, fun m time r => ?pulse, fun src ks r => ?raise,
    fun before c i member time r => ?engine⟩
  case changes =>
    have event : exec (.boardReport board levels) s = .next (transmit (s.onPart (boardReport board levels))) :=
      partEvent_quiet quiet _
    obtain ⟨k, r, changed⟩ := boardReport_changes board levels s.part
    exact ⟨k, r, by rw [event, State.onPart, changed]⟩
  case unknown => exact boardReport_quiet quiet (boardReport_unknown levels s.part unknown)
  case single =>
    have single := boardReport_single (p := s.part) named stored
    refine ⟨fun same => ?_, fun inactive differs => ?_, fun active differs early => ?_, fun active pulse => ?_⟩
    · exact boardReport_quiet quiet (single.trans (markerLevel_same same))
    · rw [inactive] at single
      exact boardReport_quiet quiet (single.trans (markerLevel_inactive differs))
    · rw [active] at single
      refine boardReport_quiet quiet (single.trans (markerLevel_early differs ?_))
      rw [← Bool.not_eq_true, Marker.pulses_iff]
      exact early
    · rw [active] at single
      have pulses := (Marker.pulses_iff s.part.markers.units s.part.markers.time _).mpr pulse
      exact ⟨_, boardReport_quiet quiet (single.trans (markerLevel_pulse pulses)), rfl,
        fun i => (roadPulse_kept m s.part.markers.time s.part.cells s.part.drivers s.part.road).1 i,
        fun c => (roadPulse_kept m s.part.markers.time s.part.cells s.part.drivers s.part.road).2 c⟩
  case fold => exact boardReport_quiet quiet (boardReport_eq levels s.part named)
  case level =>
    refine ⟨fun same => markerLevel_same same, fun inactive differs => ?_, fun active differs early => ?_,
      fun active pulse => ?_⟩
    · subst inactive
      exact markerLevel_inactive differs
    · subst active
      refine markerLevel_early differs ?_
      rw [← Bool.not_eq_true, Marker.pulses_iff]
      exact early
    · subst active
      exact markerLevel_pulse ((Marker.pulses_iff p.markers.units p.markers.time _).mpr pulse)
  case pulse =>
    refine (roadPulse_eq m time r).trans ?_
    refine if_congr Iff.rfl ?_ (congrArg arbitrate ?_) <;>
    · refine List.foldl_ext _ _ _ fun x i _ => ?_
      split
      next unheld => exact pulseReport_unheld unheld
      next h held => exact pulseReport_held held
  case raise =>
    refine ⟨fun none => ?_, fun some => ⟨?_, fun b => ?_⟩, ?_, ?_⟩
    · rw [none, Road.raiseAll_nil]
    · rw [Road.raiseAll_of_ne some]
      simp [NoticeSource.raised]
    · rw [Road.raiseAll_of_ne some]
      simp [NoticeSource.raised, getLsbD_subjectsOf]
    · by_cases none : ks = []
      · rw [none, Road.raiseAll_nil]
      · rw [Road.raiseAll_of_ne none]
        simp [NoticeSource.raised]
    · by_cases none : ks = []
      · rw [none, Road.raiseAll_nil, Table.put_at]
      · rw [Road.raiseAll_of_ne none, Table.at_put_self]
  case engine =>
    refine ⟨fun unheld => ?_, fun j held first => ⟨?_, fun stays => ?_, fun n heldStep ahead lowest => ?_⟩,
      fun next => leadChecks_of_clear next, fun next moves => ?_, fun next still => ?_, fun next => ?_,
      fun k => arrivalTestAt_eq c k r, fun arrived => ?_, fun away => ?_, fun h t running armed second held ahead => ?_,
      fun unchecked => gapCheck_of_unchecked unchecked⟩
    · have none := ((r.convoy c).heldStepOf_iff i).1.mpr unheld
      exact ⟨entryReport_of_unheld none, releaseReport_of_unheld none⟩
    · exact entryReport_of_held (((r.convoy c).heldStepOf_iff i).2 j |>.mpr ⟨held, first⟩)
    · rw [releaseReport_of_held (((r.convoy c).heldStepOf_iff i).2 j |>.mpr ⟨held, first⟩), Convoy.marked_eq]
      rcases stays with ⟨n, low, t, step, heldStep⟩ | none
      · exact raiseLead_of_held (by simpa using low) (by simpa using step) heldStep
      · exact raiseLead_of_none (by simpa using none)
    · rw [releaseReport_of_held (((r.convoy c).heldStepOf_iff i).2 j |>.mpr ⟨held, first⟩), Convoy.marked_eq]
      obtain ⟨t, step, heldStep⟩ := heldStep
      rw [raiseLead_of_ahead (n := n) (t := t) (by simpa using step) heldStep (by simpa using ahead) (by simpa using lowest),
        Road.setConvoy_setConvoy, Road.convoy_setConvoy_self]
      rfl
    · rw [← ConvoyState.active_iff] at moves
      rw [leadChecks_of_ahead next, if_pos moves]
      rfl
    · rw [← ConvoyState.active_iff] at still
      rw [leadChecks_of_ahead next, if_neg still]
    · obtain ⟨st, next, notHeld, notAhead⟩ := next
      exact leadChecks_of_blocked next notHeld notAhead
    · have arrived := (r.allArrived_iff c).mpr arrived
      obtain ⟨request, asked, state⟩ := arrived_spec c r arrived
      exact ⟨arrivalTest_of_arrived arrived, request, asked, state, fun asked request => withdrawAsked_none c r asked request⟩
    · exact arrivalTest_of_away (Bool.not_eq_true _ |>.mp (mt (r.allArrived_iff c).mp away))
    · rw [gapCheck_of_checked running armed second held ahead, Road.updConvoy, Convoy.gapChecked_eq second]

end Sys2Proof.Machine
end

section
/-! Passing over, promotion and earmarks (R31 to R33). -/

namespace Sys2Proof.Machine

/-! ## Passing over (R31) -/

theorem GroupRequest.passedOver_eq (g q : GroupRequest) :
    q.passedOver g = if g.arrival < q.arrival ∧ ∃ l ∈ g.legs, ∃ l' ∈ q.legs, l.sec = l'.sec
      then { g with passed := min 7 (g.passed + 1) } else g := by
  unfold GroupRequest.passedOver
  refine if_congr ?_ rfl rfl
  simp only [Bool.and_eq_true, decide_eq_true_eq, List.any_eq_true, GroupRequest.names]
  grind

theorem passOver_request (g : GroupRequest) (r : Road) (c : ConvoyId) :
    (passOver g r).request c = (r.request c).map g.passedOver := Table.at_mapAll _ _ _

/-! ## Patience (R32) -/

section Patience

variable (r : Road)

/-- One step of the search for the smallest patience. -/
def Road.impatient (r : Road) (n : Nat) (l : Leg) : Nat :=
  match (r.sect l.sec).defn with
  | some d => min n d.patience
  | none => n

theorem Road.leastPatience_eq (q : GroupRequest) : r.leastPatience q = q.legs.foldl r.impatient 7 := rfl

theorem Road.impatient_le (n : Nat) (l : Leg) : r.impatient n l ≤ n := by
  unfold Road.impatient
  split <;> omega

theorem Road.foldl_impatient_le (legs : List Leg) (n : Nat) : legs.foldl r.impatient n ≤ n := by
  induction legs generalizing n with
  | nil => exact Nat.le_refl _
  | cons l legs ih => exact (ih _).trans (r.impatient_le n l)

theorem Road.foldl_impatient_le_patience {legs : List Leg} {l : Leg} (listed : l ∈ legs) {d : SectionDef}
    (defn : (r.sect l.sec).defn = some d) (n : Nat) : legs.foldl r.impatient n ≤ d.patience := by
  induction legs generalizing n with
  | nil => cases listed
  | cons k legs ih =>
    rcases List.mem_cons.mp listed with rfl | later
    · refine (r.foldl_impatient_le legs _).trans ?_
      simp only [Road.impatient, defn]
      omega
    · exact ih later _

theorem Road.le_foldl_impatient {legs : List Leg} {least : Nat}
    (patient : ∀ l ∈ legs, ∃ d, (r.sect l.sec).defn = some d ∧ least ≤ d.patience) {n : Nat} (start : least ≤ n) :
    least ≤ legs.foldl r.impatient n := by
  refine foldl_keeps (P := fun n => least ≤ n) legs n (fun n l listed le => ?_) start
  obtain ⟨d, defn, enough⟩ := patient l listed
  simp only [Road.impatient, defn]
  omega

end Patience

/-! ## Earmarks (R33) -/

theorem Section.earmarkFor_eq (promotions : List ConvoyId) (v : Section) :
    v.earmarkFor promotions = if v.earmark = none ∧ v.status = .free
      then promotions.find? fun c => decide (c ∈ v.queue) else v.earmark := by
  unfold Section.earmarkFor
  cases v.earmark with
  | some c => simp
  | none => simp

theorem placeEarmarks_sect (r : Road) (i : SectionId) :
    (placeEarmarks r).sect i = { r.sect i with earmark := (r.sect i).earmarkFor r.promotions } := Table.at_mapAll _ _ _

/-- An earmark once placed stays, and a second placing finds nothing to do. -/
theorem placeEarmarks_idem (r : Road) : placeEarmarks (placeEarmarks r) = placeEarmarks r := by
  have settled (v : Section) (ps : List ConvoyId) :
      Section.earmarkFor ps { v with earmark := v.earmarkFor ps } = v.earmarkFor ps := by
    rw [Section.earmarkFor_eq, Section.earmarkFor_eq]
    dsimp only
    split
    next placed =>
      obtain ⟨absent, free⟩ := placed
      split
      next => rfl
      next => rfl
    next => rfl
  have sections : (placeEarmarks (placeEarmarks r)).sections = (placeEarmarks r).sections := by
    apply Table.ext
    intro i
    change (placeEarmarks (placeEarmarks r)).sect i = (placeEarmarks r).sect i
    rw [placeEarmarks_sect, placeEarmarks_sect]
    exact congrArg (fun e => { r.sect i with earmark := e }) (settled (r.sect i) r.promotions)
  calc placeEarmarks (placeEarmarks r)
      = { placeEarmarks r with sections := (placeEarmarks (placeEarmarks r)).sections } := rfl
    _ = placeEarmarks r := by rw [sections]

/-! ## The promotions that are due (R32) -/

theorem insertByArrival_sorted (e : ConvoyId × GroupRequest) {es : List (ConvoyId × GroupRequest)}
    (sorted : es.Pairwise fun a b => a.2.arrival ≤ b.2.arrival) :
    (insertByArrival e es).Pairwise fun a b => a.2.arrival ≤ b.2.arrival := by
  induction es with
  | nil => exact List.pairwise_singleton _ _
  | cons x xs ih =>
    obtain ⟨first, rest⟩ := List.pairwise_cons.mp sorted
    unfold insertByArrival
    split
    next before =>
      refine List.pairwise_cons.mpr ⟨fun y listed => ?_, sorted⟩
      rcases List.mem_cons.mp listed with rfl | later
      · exact before
      · exact before.trans (first y later)
    next after =>
      refine List.pairwise_cons.mpr ⟨fun y listed => ?_, ih rest⟩
      rcases (mem_insertByArrival e y xs).mp listed with rfl | later
      · omega
      · exact first y later

theorem Road.duePromotions_sorted (r : Road) : r.duePromotions.Pairwise fun a b => a.2.arrival ≤ b.2.arrival := by
  unfold Road.duePromotions
  generalize (r.waiting.filter fun e => !e.2.promoted && decide (r.leastPatience e.2 ≤ e.2.passed)) = es
  induction es with
  | nil => exact List.Pairwise.nil
  | cons e es ih => exact insertByArrival_sorted e ih

/-! ## Promoting one after another -/

/-- The road after the given promotions, before the earmarks. -/
def promoteAll (es : List (ConvoyId × GroupRequest)) (r : Road) : Road := es.foldl (fun r e => promoteOne e r) r

theorem promote_eq (r : Road) : promote r = placeEarmarks (promoteAll r.duePromotions r) := rfl

theorem promoteOne_request (e : ConvoyId × GroupRequest) (r : Road) (c : ConvoyId) :
    (promoteOne e r).request c = if c = e.1 then some { e.2 with promoted := true } else r.request c :=
  Table.at_put _ _ _ _

section PromoteAll

variable (es : List (ConvoyId × GroupRequest)) (r : Road)

theorem promoteAll_rest : promoteAll es r = { r with
    requests := (promoteAll es r).requests, promotions := (promoteAll es r).promotions,
    notices := (promoteAll es r).notices } := by
  unfold promoteAll
  induction es generalizing r with
  | nil => rfl
  | cons e es ih =>
    rw [List.foldl_cons, ih]
    rfl

theorem promoteAll_promotions : (promoteAll es r).promotions = r.promotions ++ es.map Prod.fst := by
  unfold promoteAll
  induction es generalizing r with
  | nil => simp
  | cons e es ih =>
    rw [List.foldl_cons, ih]
    simp [promoteOne]

theorem promoteAll_notices :
    (promoteAll es r).notices = es.foldl (fun k e => k.raise srcGrantPromoted (subject e.1.val)) r.notices := by
  unfold promoteAll
  induction es generalizing r with
  | nil => rfl
  | cons e es ih =>
    rw [List.foldl_cons, ih]
    rfl

/-- What the promotion of several requests of which one at most is convoy `c`'s makes of that convoy's. -/
theorem promoteAll_request {c : ConvoyId} {q : GroupRequest} (own : ∀ p, (c, p) ∈ es → p = q) :
    (promoteAll es r).request c = if (c, q) ∈ es then some { q with promoted := true } else r.request c := by
  unfold promoteAll
  induction es generalizing r with
  | nil => simp
  | cons e es ih =>
    rw [List.foldl_cons, ih _ fun p later => own p (List.mem_cons_of_mem _ later)]
    by_cases later : (c, q) ∈ es
    · simp [later]
    · obtain ⟨k, p⟩ := e
      by_cases same : c = k
      · subst same
        obtain rfl : p = q := own p List.mem_cons_self
        rw [promoteOne_request, if_pos rfl]
        simp [later]
      · rw [promoteOne_request, if_neg same]
        simp [later, same]

end PromoteAll

/-! ## Raises of one source after another -/

section Raises

variable (es : List (ConvoyId × GroupRequest)) (k : NoticeControl)

/-- The notices after a raise of one source for each of the promoted convoys. -/
def raisedFor (src : SourceId) (es : List (ConvoyId × GroupRequest)) (k : NoticeControl) : NoticeControl :=
  es.foldl (fun k e => k.raise src (subject e.1.val)) k

variable (src : SourceId)

theorem raisedFor_seq : (raisedFor src es k).seq = k.seq := by
  unfold raisedFor
  induction es generalizing k with
  | nil => rfl
  | cons e es ih => exact (ih _).trans rfl

theorem raisedFor_other {i : SourceId} (other : i ≠ src) :
    Table.at (raisedFor src es k).sources i = Table.at k.sources i := by
  unfold raisedFor
  induction es generalizing k with
  | nil => rfl
  | cons e es ih =>
    rw [List.foldl_cons, ih]
    exact Table.at_upd_other _ other _

theorem raisedFor_self :
    Table.at (raisedFor src es k).sources src = { Table.at k.sources src with
      pending := (Table.at k.sources src).pending || decide (es ≠ []),
      subjects := (Table.at (raisedFor src es k).sources src).subjects } := by
  unfold raisedFor
  induction es generalizing k with
  | nil => simp
  | cons e es ih =>
    rw [List.foldl_cons, ih]
    simp [NoticeControl.raise, NoticeSource.raised]

theorem raisedFor_subjects (b : Nat) :
    (Table.at (raisedFor src es k).sources src).subjects.getLsbD b
      = ((Table.at k.sources src).subjects.getLsbD b || es.any fun e => decide (e.1.val = b)) := by
  unfold raisedFor
  induction es generalizing k with
  | nil => simp
  | cons e es ih =>
    rw [List.foldl_cons, ih, NoticeControl.raise, Table.at_upd_self, NoticeSource.raised, BitVec.getLsbD_or, subject,
      BitVec.getLsbD_twoPow, List.any_cons, Bool.or_assoc]
    have small : e.1.val < 64 := by omega
    simp [small, eq_comm]

end Raises

/-! ## Promotion as a whole -/

theorem promote_request {r : Road} {c : ConvoyId} {q : GroupRequest} (asked : r.request c = some q) :
    (promote r).request c
      = some { q with promoted := q.promoted || decide (r.leastPatience q ≤ q.passed) } := by
  have own (p : GroupRequest) (due : (c, p) ∈ r.duePromotions) : p = q := by
    have := ((mem_duePromotions r c p).mp due).1
    rw [asked] at this
    exact (Option.some.inj this).symm
  have request : (promote r).request c = (promoteAll r.duePromotions r).request c := rfl
  rw [request, promoteAll_request _ _ own]
  by_cases due : (c, q) ∈ r.duePromotions
  · obtain ⟨-, -, reached⟩ := (mem_duePromotions r c q).mp due
    simp [due, reached]
  · rw [if_neg due, asked]
    rw [mem_duePromotions] at due
    obtain ⟨first, legs, arrival, passed, promoted⟩ := q
    cases promoted
    · have early : ¬ r.leastPatience ⟨first, legs, arrival, passed, false⟩ ≤ passed := fun reached => due ⟨asked, rfl, reached⟩
      simp [early]
    · simp

/-- Settles O33. -/
theorem passedOverRequestsArePromoted : Obligations.PassedOverRequestsArePromoted := by
  refine ⟨fun g r c q asked => ⟨?passed, promote_request asked, fun plain reached => ?told,
    fun d patient small => r.le_foldl_impatient patient small, fun l listed x defn => r.foldl_impatient_le_patience listed defn 7⟩,
    fun r => ⟨fun g => ⟨rfl, fun c none => ?unasked⟩, fun c none => (unasked_promote none).1, fun i => ?earmark, rfl, ?due,
    fun i => ?marked, ?rest⟩⟩
  case passed => rw [passOver_request, asked, Option.map_some, GroupRequest.passedOver_eq]
  case told =>
    have due := (mem_duePromotions r c q).mpr ⟨asked, plain, reached⟩
    have notices : (promote r).notices = raisedFor srcGrantPromoted r.duePromotions r.notices := promoteAll_notices _ _
    have some : r.duePromotions ≠ [] := List.ne_nil_of_mem due
    refine ⟨?_, ?_, ?_⟩
    · have listed : (promote r).promotions = r.promotions ++ r.duePromotions.map Prod.fst := promoteAll_promotions _ _
      rw [listed]
      exact List.mem_append_right _ (List.mem_map_of_mem (f := Prod.fst) due)
    · rw [notices, raisedFor_self]
      simp [some]
    · rw [notices, raisedFor_subjects, List.any_eq_true.mpr ⟨_, due, decide_eq_true rfl⟩, Bool.or_true]
  case unasked => rw [passOver_request, none, Option.map_none]
  case earmark => rw [placeEarmarks_sect, Section.earmarkFor_eq]
  case due =>
    have notices : (promote r).notices = raisedFor srcGrantPromoted r.duePromotions r.notices := promoteAll_notices _ _
    refine ⟨r.duePromotions, promoteAll_promotions _ _, mem_duePromotions r, r.duePromotions_sorted, ?_, fun src => ?_⟩
    · rw [notices, raisedFor_seq]
    · rw [notices]
      refine ⟨fun other => raisedFor_other _ _ _ other, ?_⟩
      rintro rfl
      exact ⟨raisedFor_self _ _ _, raisedFor_subjects _ _ _⟩
  case marked =>
    rw [promote_eq, placeEarmarks_sect, Section.earmarkFor_eq, promoteAll_rest]
    rfl
  case rest =>
    rw [promote_eq, promoteAll_rest]
    rfl

end Sys2Proof.Machine
end

section
/-! The arbitration pass (R27 to R30). -/

namespace Sys2Proof.Machine

/-! ## The choice (R30) -/

section Order

variable (r : Road)

/-- Entry `e` goes before entry `b`. -/
def Road.earlier (r : Road) (e b : ConvoyId × GroupRequest) : Bool := r.goesBefore e.1 e.2 b.1 b.2

theorem Road.earlier_iff (e b : ConvoyId × GroupRequest) :
    r.earlier e b = true ↔ (e.2.promoted = true ∧ b.2.promoted = false)
      ∨ (e.2.promoted = b.2.promoted ∧ ((r.convoy b.1).priority < (r.convoy e.1).priority
          ∨ ((r.convoy e.1).priority = (r.convoy b.1).priority ∧ e.2.arrival < b.2.arrival))) := by
  unfold Road.earlier Road.goesBefore
  by_cases same : e.2.promoted = b.2.promoted
  · simp only [same, bne_self_eq_false, if_false, Bool.false_eq_true, true_and]
    split <;> simp <;> omega
  · have differ : (e.2.promoted != b.2.promoted) = true := by simpa using same
    rw [if_pos differ]
    cases he : e.2.promoted <;> cases hb : b.2.promoted <;> simp_all

theorem Road.earlier_trans (a b c : ConvoyId × GroupRequest) (ab : r.earlier a b = true) (bc : r.earlier b c = true) :
    r.earlier a c = true := by
  rw [Road.earlier_iff] at *
  grind

theorem Road.earlier_split (a b c : ConvoyId × GroupRequest) (ac : r.earlier a c = true) :
    r.earlier a b = true ∨ r.earlier b c = true := by
  simp only [Road.earlier_iff] at *
  cases ha : a.2.promoted <;> cases hb : b.2.promoted <;> cases hc : c.2.promoted <;> simp_all <;> omega

theorem Road.earlier_asymm (a b : ConvoyId × GroupRequest) (ab : r.earlier a b = true) : r.earlier b a = false := by
  rw [← Bool.not_eq_true]
  rw [Road.earlier_iff] at *
  grind

/-- The grantable requests with their convoys. -/
def Road.candidates (r : Road) : List (ConvoyId × GroupRequest) := r.waiting.filter fun e => r.grantable e.1 e.2

theorem Road.mem_candidates (c : ConvoyId) (q : GroupRequest) :
    (c, q) ∈ r.candidates ↔ r.request c = some q ∧ r.grantable c q = true := by
  rw [Road.candidates, List.mem_filter, mem_waiting]

theorem Road.choice_eq : r.choice = r.candidates.foldl (keepBetter r.earlier) none := by
  unfold Road.choice Road.candidates
  congr 1
  funext best e
  cases best <;> rfl

theorem Road.choice_cases :
    (r.candidates = [] ∧ r.choice = none)
      ∨ ∃ x ∈ r.candidates, r.choice = some x ∧ ∀ y ∈ r.candidates, r.earlier y x = false := by
  rw [Road.choice_eq]
  obtain none | ⟨pre, x, post, candidates, chosen, before, after⟩ :=
    foldl_keepBetter r.earlier_trans r.earlier_split r.candidates
  · exact .inl none
  · refine .inr ⟨x, by rw [candidates]; simp, chosen, fun y listed => ?_⟩
    rw [candidates, List.mem_append, List.mem_cons] at listed
    rcases listed with early | rfl | late
    · exact r.earlier_asymm x y (before y early)
    · rw [← Bool.not_eq_true]
      exact fun self => by rw [r.earlier_asymm y y self] at self; cases self
    · exact after y late

end Order

/-! ## Grantable groups (R28) -/

theorem Section.heldBy_iff (v : Section) (c : ConvoyId) :
    v.heldBy c = true ↔ ∃ h, v.status.holding = some h ∧ h.convoy = c := by
  unfold Section.heldBy
  cases v.status.holding <;> simp

theorem Road.exempt_iff (r : Road) (c x : ConvoyId) :
    r.exempt c x = true ↔ ∃ p, r.request x = some p ∧ p.promoted = true
      ∧ ∃ l ∈ p.legs, ∃ h, (r.sect l.sec).status.holding = some h ∧ h.convoy = c := by
  simp only [← Section.heldBy_iff, Road.exempt]
  cases r.request x <;> simp

theorem Road.grantable_iff (r : Road) (c : ConvoyId) (q : GroupRequest) :
    r.grantable c q = true ↔ ∀ l ∈ q.legs, (r.sect l.sec).status = .free
      ∧ ∀ x, (r.sect l.sec).earmark = some x → x = c ∨ r.exempt c x = true := by
  simp only [Road.grantable, List.all_eq_true, Road.legFree, Bool.and_eq_true, decide_eq_true_eq]
  refine forall₂_congr fun l _ => and_congr_right fun _ => ?_
  cases (r.sect l.sec).earmark <;> simp

/-! ## What a grant leaves asked -/

theorem setJunction_requests (l : Leg) (r : Road) : (setJunction l r).requests = r.requests := by
  unfold setJunction
  split
  · rfl
  · dsimp only
    split
    · rfl
    · split <;> rfl

theorem setJunctions_requests (legs : List Leg) (r : Road) :
    (legs.foldl (fun r l => setJunction l r) r).requests = r.requests :=
  foldl_keeps (P := fun x : Road => x.requests = r.requests) legs r (fun _ l _ same => (setJunction_requests l _).trans same) rfl

theorem grant_requests (c : ConvoyId) (q : GroupRequest) (r : Road) :
    (grant c q r).requests = Table.put r.requests c none := by
  have reported (x : Road) (y : List SettlingRecord) (b : Bool) :
      (if b = true then { grantReport c q.first q.last x with settling := y }
       else settledReport c q.first q.last (grantReport c q.first q.last x)).requests = x.requests := by
    cases b <;> rfl
  rw [grant, reported, setJunctions_requests]
  exact congrArg (fun t => Table.put t c none) (grantLegs_requests c q.legs r)

/-- A grant with what follows it ends one convoy's asking and no other's. -/
theorem afterGrant_asks (c : ConvoyId) (q : GroupRequest) (r : Road) (k : ConvoyId) :
    ((promote (passOver q (grant c q r))).request k).isSome = (decide (k ≠ c) && (r.request k).isSome) := by
  have granted : (grant c q r).request k = if k = c then none else r.request k := by
    rw [Road.request, grant_requests, Table.at_put]
    rfl
  have passed : ((passOver q (grant c q r)).request k).isSome = ((grant c q r).request k).isSome := by
    rw [passOver_request, Option.isSome_map]
  have promoted : ((promote (passOver q (grant c q r))).request k).isSome = ((passOver q (grant c q r)).request k).isSome := by
    cases asked : (passOver q (grant c q r)).request k with
    | none => rw [(unasked_promote asked).1]
    | some p => rw [promote_request asked]; rfl
  rw [promoted, passed, granted]
  by_cases same : k = c <;> simp [same]

/-! ## The pass ends -/

/-- How many convoys ask for a group. -/
def Road.asking (r : Road) : Nat := (Finset.univ.filter fun c => (r.request c).isSome = true).card

theorem Road.asking_le (r : Road) : r.asking ≤ 8 :=
  (Finset.card_le_univ _).trans (by simp)

theorem Road.choice_of_not_asking {r : Road} (none : r.asking = 0) : r.choice = Option.none := by
  have idle (c : ConvoyId) : r.request c = Option.none := by
    have unlisted : c ∉ Finset.univ.filter fun c => (r.request c).isSome = true := by
      rw [Finset.card_eq_zero.mp none]
      exact Finset.notMem_empty c
    simpa using unlisted
  rw [Road.choice_eq, Road.candidates, waiting_of_none idle]
  rfl

theorem Road.asking_afterGrant {r : Road} {c : ConvoyId} {q : GroupRequest} (asked : r.request c = some q) :
    (promote (passOver q (grant c q r))).asking < r.asking := by
  refine Finset.card_lt_card (Finset.ssubset_iff_subset_ne.mpr ⟨fun k => ?_, fun same => ?_⟩)
  · simp only [Finset.mem_filter, Finset.mem_univ, true_and, afterGrant_asks, Bool.and_eq_true]
    exact And.right
  · have listed : c ∈ Finset.univ.filter fun c => (r.request c).isSome = true := by simp [asked]
    rw [← same] at listed
    simp [afterGrant_asks] at listed

theorem passLoop_of_none {r : Road} (none : r.choice = none) (n : Nat) : passLoop n r = r := by
  cases n with
  | zero => rfl
  | succ n => simp only [passLoop, none]

theorem passLoop_of_some {r : Road} {c : ConvoyId} {q : GroupRequest} (chosen : r.choice = some (c, q)) (n : Nat) :
    passLoop (n + 1) r = passLoop n (promote (passOver q (grant c q r))) := by
  simp only [passLoop, chosen]

/-- With fuel for every asking convoy the pass ends with nothing to grant, and more fuel changes nothing. -/
theorem passLoop_ends (n : Nat) {r : Road} (enough : r.asking ≤ n) :
    (passLoop n r).choice = none ∧ passLoop (n + 1) r = passLoop n r := by
  induction n generalizing r with
  | zero =>
    have none := Road.choice_of_not_asking (Nat.le_zero.mp enough)
    exact ⟨none, passLoop_of_none none 1⟩
  | succ n ih =>
    cases chosen : r.choice with
    | none => exact ⟨by rwa [passLoop_of_none chosen], by rw [passLoop_of_none chosen, passLoop_of_none chosen]⟩
    | some e =>
      obtain ⟨c, q⟩ := e
      have fewer := Road.asking_afterGrant ((mem_waiting r c q).mp (choice_grantable chosen).1)
      rw [passLoop_of_some chosen, passLoop_of_some chosen]
      exact ih (by omega)

/-- Settles O31. -/
theorem theArbiterChoosesTheFirst : Obligations.TheArbiterChoosesTheFirst := by
  refine ⟨fun r => ⟨fun c q chosen => ?chosen, ?none⟩, fun c q r => ?grantable, fun r => ⟨?idle, fun c q chosen => ?next, ?ends⟩⟩
  case chosen =>
    obtain ⟨-, absent⟩ | ⟨x, listed, found, first⟩ := r.choice_cases
    · rw [absent] at chosen; cases chosen
    · rw [found] at chosen
      cases chosen
      obtain ⟨asked, grantable⟩ := (r.mem_candidates c q).mp listed
      refine ⟨asked, grantable, fun c' q' asked' grantable' => ?_⟩
      have notEarlier := first (c', q') ((r.mem_candidates c' q').mpr ⟨asked', grantable'⟩)
      rw [← Bool.not_eq_true, Road.earlier_iff] at notEarlier
      grind
  case none =>
    obtain ⟨empty, absent⟩ | ⟨x, listed, found, first⟩ := r.choice_cases
    · refine iff_of_true absent fun c q asked => ?_
      rw [← Bool.not_eq_true]
      intro grantable
      have := (r.mem_candidates c q).mpr ⟨asked, grantable⟩
      rw [empty] at this
      cases this
    · obtain ⟨asked, grantable⟩ := (r.mem_candidates x.1 x.2).mp listed
      refine iff_of_false (by rw [found]; simp) fun none => ?_
      rw [none x.1 x.2 asked] at grantable
      cases grantable
  case grantable => simp only [Road.grantable_iff, Road.exempt_iff]
  case idle => exact fun none => passLoop_of_none none 8
  case next =>
    have fewer := Road.asking_afterGrant ((mem_waiting _ c q).mp (choice_grantable chosen).1)
    have most := (placeEarmarks r).asking_le
    have fixed : placeEarmarks (promote (passOver q (grant c q (placeEarmarks r))))
        = promote (passOver q (grant c q (placeEarmarks r))) := by
      rw [promote_eq, placeEarmarks_idem]
    calc arbitrate r
        = passLoop 7 (promote (passOver q (grant c q (placeEarmarks r)))) := passLoop_of_some chosen 7
      _ = passLoop 8 (promote (passOver q (grant c q (placeEarmarks r)))) := (passLoop_ends 7 (by omega)).2.symm
      _ = arbitrate (promote (passOver q (grant c q (placeEarmarks r)))) := by rw [arbitrate, fixed]
  case ends => exact (passLoop_ends 8 (placeEarmarks r).asking_le).1

end Sys2Proof.Machine
end

section
/-! The grant (R35 to R37) and the indices of a convoy (R51). -/

namespace Sys2Proof.Machine

/-! ## Tail and furthest held index (R51) -/

section Indices

/-- Step `n` of the route is held (R51). -/
def Convoy.holdsStep (v : Convoy) (n : Nat) : Prop := ∃ t, v.route[n]? = some t ∧ (t.status = .settling ∨ t.status = .held)

variable (v : Convoy)

theorem Convoy.mem_held (n : Nat) : n ∈ v.stepNumbers RouteStep.isHeld ↔ v.holdsStep n := by
  simp only [Convoy.mem_stepNumbers, RouteStep.isHeld_iff, Convoy.holdsStep]

theorem Convoy.held_sorted : (v.stepNumbers RouteStep.isHeld).Pairwise (· < ·) := stepNumbersFrom_sorted _ _ 0

variable {v}

theorem Convoy.tail_of_none (none : ∀ n ≤ v.lead, ¬ v.holdsStep n) : v.reindex.tail = v.lead := by
  have absent : (v.stepNumbers RouteStep.isHeld).find? (fun k => decide (k ≤ v.lead)) = Option.none := by
    simp only [List.find?_eq_none, decide_eq_true_eq, Convoy.mem_held]
    exact fun n held low => none n low held
  rw [Convoy.reindex, absent]
  rfl

theorem Convoy.tail_of_first {n : Nat} (low : n ≤ v.lead) (held : v.holdsStep n) (first : ∀ k < n, ¬ v.holdsStep k) :
    v.reindex.tail = n := by
  have found : (v.stepNumbers RouteStep.isHeld).find? (fun k => decide (k ≤ v.lead)) = some n := by
    obtain ⟨pre, post, split⟩ := List.append_of_mem (v.mem_held n |>.mpr held)
    have nothing : pre = [] := by
      have sorted := v.held_sorted
      rw [split] at sorted
      cases pre with
      | nil => rfl
      | cons k pre =>
        have less : k < n := List.rel_of_pairwise_cons sorted (by simp)
        exact absurd ((v.mem_held k).mp (by rw [split]; simp)) (first k less)
    rw [split, nothing]
    simp [low]
  rw [Convoy.reindex, found]
  rfl

theorem Convoy.furthest_of_none (none : ∀ n, ¬ v.holdsStep n) : v.reindex.furthest = v.lead := by
  have empty : v.stepNumbers RouteStep.isHeld = [] := List.eq_nil_iff_forall_not_mem.mpr fun n => by
    rw [Convoy.mem_held]
    exact none n
  rw [Convoy.reindex, empty]
  rfl

theorem Convoy.furthest_of_last {n : Nat} (held : v.holdsStep n) (last : ∀ k, n < k → ¬ v.holdsStep k) :
    v.reindex.furthest = n := by
  obtain ⟨pre, post, split⟩ := List.append_of_mem (v.mem_held n |>.mpr held)
  have nothing : post = [] := by
    have sorted := v.held_sorted
    rw [split, List.pairwise_append, List.pairwise_cons] at sorted
    obtain ⟨-, ⟨later, -⟩, -⟩ := sorted
    cases post with
    | nil => rfl
    | cons k post => exact absurd ((v.mem_held k).mp (by rw [split]; simp)) (last k (later k List.mem_cons_self))
  have found : (v.stepNumbers RouteStep.isHeld).getLast? = some n := by rw [split, nothing]; simp
  rw [Convoy.reindex, found]
  rfl

end Indices

/-! ## The sections of the group (R35) -/

section Legs

variable (c : ConvoyId)

/-- What a grant makes of a section (R35). -/
def Section.grantedTo (c : ConvoyId) (dir : Dir) (v : Section) : Section :=
  { v with status := .granted { convoy := c, dir, entered := 0, exited := 0, log := [] }, earmark := none,
           queue := v.queue.filter fun x => x ≠ c }

theorem grantLeg_sect (l : Leg) (r : Road) (i : SectionId) :
    (grantLeg c l r).sect i = if i = l.sec then (r.sect i).grantedTo c l.dir else r.sect i := by
  rw [grantLeg, Road.sect_setSect]
  by_cases own : i = l.sec
  · subst own
    rfl
  · rw [if_neg own, if_neg own]

/-- Every leg becomes GRANTED. -/
def grantLegs (legs : List Leg) (r : Road) : Road := legs.foldl (fun r l => grantLeg c l r) r

theorem grantLegs_sect_other {legs : List Leg} {i : SectionId} (other : i ∉ legs.map Leg.sec) (r : Road) :
    (grantLegs c legs r).sect i = r.sect i := by
  refine foldl_keeps (P := fun x : Road => x.sect i = r.sect i) legs r (fun x l listed same => ?_) rfl
  have differs : i ≠ l.sec := fun h => other (h ▸ List.mem_map_of_mem listed)
  rw [grantLeg_sect, if_neg differs, same]

theorem grantLegs_sect {legs : List Leg} (once : (legs.map Leg.sec).Nodup) {l : Leg} (listed : l ∈ legs) (r : Road) :
    (grantLegs c legs r).sect l.sec = (r.sect l.sec).grantedTo c l.dir := by
  obtain ⟨pre, post, rfl⟩ := List.append_of_mem listed
  rw [List.map_append, List.map_cons, List.nodup_middle, List.nodup_cons, List.mem_append, not_or] at once
  obtain ⟨⟨notPre, notPost⟩, -⟩ := once
  have before := grantLegs_sect_other c notPre r
  rw [grantLegs, List.foldl_append, List.foldl_cons]
  refine (grantLegs_sect_other c notPost _).trans ?_
  rw [grantLeg_sect, if_pos rfl]
  exact congrArg (Section.grantedTo c l.dir) before

theorem grantLegs_sections (legs : List Leg) (r : Road) :
    grantLegs c legs r = { r with sections := (grantLegs c legs r).sections } := by
  refine foldl_keeps (P := fun x : Road => x = { r with sections := x.sections }) legs r (fun x l _ same => ?_) rfl
  rw [same]
  rfl

end Legs

/-! ## The junctions of the group (R36) -/

section Junctions

/-- The junction of a leg's section. -/
def Road.legJunction (r : Road) (l : Leg) : Option Junction := (r.sect l.sec).defn.bind SectionDef.junction

theorem Road.legJunction_iff (r : Road) (l : Leg) (j : Junction) :
    r.legJunction l = some j ↔ ∃ d, (r.sect l.sec).defn = some d ∧ d.junction = some j := by
  simp [Road.legJunction, Option.bind_eq_some_iff]

variable {l : Leg} {r : Road}

theorem setJunction_of_none (none : r.legJunction l = none) : setJunction l r = r := by
  rw [Road.legJunction] at none
  simp only [setJunction, none]

/-- The points of the section move for the leg's branch, or they stay (R36). -/
theorem setJunction_of_some {j : Junction} (found : r.legJunction l = some j) :
    setJunction l r = if l.branch ≠ .plain ∧ (r.line j.line).junction ≠ decide (l.branch = .turn)
      then { r with
        lines := Table.put r.lines j.line { r.line j.line with junction := decide (l.branch = .turn) },
        sections := if j.settle = 0 then r.sections
                    else Table.put r.sections l.sec { r.sect l.sec with settle := some j.settle } }
      else r := by
  rw [Road.legJunction] at found
  have agrees : ((r.line j.line).junction = true) = (l.branch = .turn)
      ↔ (r.line j.line).junction = decide (l.branch = .turn) := by
    cases (r.line j.line).junction <;> simp
  simp only [setJunction, found, Bool.or_eq_true, decide_eq_true_eq, agrees]
  by_cases moves : l.branch ≠ .plain ∧ (r.line j.line).junction ≠ decide (l.branch = .turn)
  · rw [if_pos moves, if_neg (by tauto)]
    split <;> rfl
  · rw [if_neg moves, if_pos (by tauto)]

theorem setJunction_sect_other {i : SectionId} (other : i ≠ l.sec) : (setJunction l r).sect i = r.sect i := by
  cases found : r.legJunction l with
  | none => rw [setJunction_of_none found]
  | some j =>
    rw [setJunction_of_some found]
    split
    next =>
      rw [Road.sect]
      dsimp only
      split
      · rfl
      · exact Table.at_put_other _ other _
    next => rfl

theorem setJunction_sect {j : Junction} (found : r.legJunction l = some j) :
    (setJunction l r).sect l.sec = { r.sect l.sec with
      settle := if (l.branch ≠ .plain ∧ (r.line j.line).junction ≠ decide (l.branch = .turn)) ∧ j.settle ≠ 0
                then some j.settle else (r.sect l.sec).settle } := by
  rw [setJunction_of_some found]
  split
  next moves =>
    rw [Road.sect]
    by_cases quick : j.settle = 0
    · simp only [quick, if_true, ne_eq, not_true_eq_false, and_false, if_false]
      rfl
    · simp only [quick, if_false, ne_eq, not_false_eq_true, moves, and_self, if_true]
      exact Table.at_put_self _ _ _
  next stays => simp [stays]

theorem setJunction_sect_settle : ∃ o, (setJunction l r).sect l.sec = { r.sect l.sec with settle := o } := by
  cases found : r.legJunction l with
  | none => exact ⟨(r.sect l.sec).settle, by rw [setJunction_of_none found]⟩
  | some j => exact ⟨_, setJunction_sect found⟩

theorem setJunction_defn (i : SectionId) : ((setJunction l r).sect i).defn = (r.sect i).defn := by
  by_cases own : i = l.sec
  · subst own
    cases found : r.legJunction l with
    | none => rw [setJunction_of_none found]
    | some j => rw [setJunction_sect found]
  · rw [setJunction_sect_other own]

theorem setJunction_line_other {k : LineId} (other : ∀ j, r.legJunction l = some j → j.line ≠ k) :
    (setJunction l r).line k = r.line k := by
  cases found : r.legJunction l with
  | none => rw [setJunction_of_none found]
  | some j =>
    rw [setJunction_of_some found]
    split
    · exact Table.at_put_other _ (other j found).symm _
    · rfl

theorem setJunction_line {j : Junction} (found : r.legJunction l = some j) :
    ((setJunction l r).line j.line).junction
      = if l.branch = .plain then (r.line j.line).junction else decide (l.branch = .turn) := by
  rw [setJunction_of_some found]
  split
  next moves =>
    rw [if_neg moves.1, Road.line, Table.at_put_self]
  next stays =>
    split
    next => rfl
    next branch => exact not_not.mp fun differs => stays ⟨branch, differs⟩

theorem setJunction_rest : setJunction l r
    = { r with sections := (setJunction l r).sections, lines := (setJunction l r).lines } := by
  cases found : r.legJunction l with
  | none => rw [setJunction_of_none found]
  | some j =>
    rw [setJunction_of_some found]
    split <;> rfl

/-! ### All junctions of the group -/

/-- The junctions of all legs are set. -/
def setJunctions (legs : List Leg) (r : Road) : Road := legs.foldl (fun r l => setJunction l r) r

variable {legs : List Leg}

theorem setJunctions_sect_other {i : SectionId} (other : i ∉ legs.map Leg.sec) :
    (setJunctions legs r).sect i = r.sect i := by
  refine foldl_keeps (P := fun x : Road => x.sect i = r.sect i) legs r (fun x l listed same => ?_) rfl
  have differs : i ≠ l.sec := fun h => other (h ▸ List.mem_map_of_mem listed)
  rw [setJunction_sect_other differs, same]

theorem setJunctions_defn (legs : List Leg) (r : Road) (i : SectionId) :
    ((setJunctions legs r).sect i).defn = (r.sect i).defn :=
  foldl_keeps (P := fun x : Road => (x.sect i).defn = (r.sect i).defn) legs r
    (fun _ _ _ same => (setJunction_defn i).trans same) rfl

theorem setJunctions_legJunction (legs : List Leg) (r : Road) (l : Leg) :
    (setJunctions legs r).legJunction l = r.legJunction l := by
  rw [Road.legJunction, setJunctions_defn]
  rfl

theorem setJunctions_line_other {k : LineId} (other : ∀ l ∈ legs, ∀ j, r.legJunction l = some j → j.line ≠ k) :
    (setJunctions legs r).line k = r.line k := by
  induction legs generalizing r with
  | nil => rfl
  | cons l legs ih =>
    refine (ih fun l' listed j found => ?_).trans (setJunction_line_other (other l List.mem_cons_self))
    refine other l' (List.mem_cons_of_mem _ listed) j ?_
    rwa [Road.legJunction, setJunction_defn] at found

theorem setJunctions_rest (legs : List Leg) (r : Road) : setJunctions legs r
    = { r with sections := (setJunctions legs r).sections, lines := (setJunctions legs r).lines } := by
  refine foldl_keeps (P := fun x : Road => x = { r with sections := x.sections, lines := x.lines }) legs r
    (fun x l _ same => ?_) rfl
  rw [setJunction_rest, same]

/-- Each leg of a group is set on its own: its section and its line are no other leg's. -/
theorem setJunctions_leg (once : (legs.map Leg.sec).Nodup)
    (apart : ∀ l ∈ legs, ∀ l' ∈ legs, l.sec ≠ l'.sec → ∀ j j', r.legJunction l = some j → r.legJunction l' = some j' →
      j.line ≠ j'.line) (listed : l ∈ legs) :
    ∃ x, x.sect l.sec = r.sect l.sec
      ∧ (∀ j, r.legJunction l = some j → x.line j.line = r.line j.line
          ∧ (setJunctions legs r).line j.line = (setJunction l x).line j.line)
      ∧ (setJunctions legs r).sect l.sec = (setJunction l x).sect l.sec := by
  obtain ⟨pre, post, rfl⟩ := List.append_of_mem listed
  rw [List.map_append, List.map_cons, List.nodup_middle, List.nodup_cons, List.mem_append, not_or] at once
  obtain ⟨⟨notPre, notPost⟩, -⟩ := once
  have split : setJunctions (pre ++ l :: post) r = setJunctions post (setJunction l (setJunctions pre r)) := by
    rw [setJunctions, List.foldl_append, List.foldl_cons]
    rfl
  have others {j : Junction} (found : r.legJunction l = some j) {l' : Leg} (hl' : l' ∈ pre ++ l :: post)
      (differ : l.sec ≠ l'.sec) {j' : Junction} (found' : r.legJunction l' = some j') : j'.line ≠ j.line :=
    (apart l listed l' hl' differ j j' found found').symm
  refine ⟨setJunctions pre r, setJunctions_sect_other notPre, fun j found => ⟨?_, ?_⟩, ?_⟩
  · refine setJunctions_line_other fun l' hl' j' found' => others found (by simp [hl']) (fun same => ?_) found'
    exact notPre (same ▸ List.mem_map_of_mem hl')
  · rw [split]
    refine setJunctions_line_other fun l' hl' j' found' => others (l' := l') found (by simp [hl']) (fun same => ?_) ?_
    · exact notPost (same ▸ List.mem_map_of_mem hl')
    · rwa [Road.legJunction, setJunction_defn, setJunctions_defn] at found'
  · rw [split]
    exact setJunctions_sect_other notPost

end Junctions

/-! ## The grant and its reports (R35 to R37) -/

/-- The road whose junctions a grant sets. -/
def askingEnded (c : ConvoyId) (q : GroupRequest) (r : Road) : Road :=
  { (grantLegs c q.legs r).setRequest c none with
    promotions := (grantLegs c q.legs r).promotions.filter fun x => x ≠ c }

theorem askingEnded_line (c : ConvoyId) (q : GroupRequest) (r : Road) (k : LineId) : (askingEnded c q r).line k = r.line k := by
  rw [askingEnded, grantLegs_sections]
  rfl

theorem askingEnded_sect {c : ConvoyId} {q : GroupRequest} {r : Road} (once : (q.legs.map Leg.sec).Nodup) {l : Leg}
    (listed : l ∈ q.legs) : (askingEnded c q r).sect l.sec = (r.sect l.sec).grantedTo c l.dir := grantLegs_sect c once listed r

theorem askingEnded_legJunction {c : ConvoyId} {q : GroupRequest} {r : Road} (once : (q.legs.map Leg.sec).Nodup) {l : Leg}
    (listed : l ∈ q.legs) : (askingEnded c q r).legJunction l = r.legJunction l := by
  rw [Road.legJunction, askingEnded_sect once listed]
  rfl

section Grant

variable (c : ConvoyId) (q : GroupRequest) (r : Road)

/-- The road with the sections granted and the junctions set, before the reports to the engine. -/
def beforeReports (c : ConvoyId) (q : GroupRequest) (r : Road) : Road :=
  setJunctions q.legs (askingEnded c q r)

theorem grant_eq : grant c q r =
    if q.legs.any fun l => (beforeReports c q r).timerRuns l.sec then
      { grantReport c q.first q.last (beforeReports c q r) with settling := (beforeReports c q r).settling
          ++ [{ convoy := c, first := q.first, last := q.last, sections := q.legs.map Leg.sec }] }
    else settledReport c q.first q.last (grantReport c q.first q.last (beforeReports c q r)) := rfl

theorem grant_rest : grant c q r
    = { beforeReports c q r with settling := (grant c q r).settling, convoys := (grant c q r).convoys } := by
  rw [grant_eq]
  split <;> rfl

theorem beforeReports_rest : beforeReports c q r = { r with
    sections := (beforeReports c q r).sections, lines := (beforeReports c q r).lines,
    requests := Table.put r.requests c none, promotions := r.promotions.filter fun x => x ≠ c } := by
  rw [beforeReports, setJunctions_rest, askingEnded, grantLegs_sections]
  rfl

variable {c q r}

theorem grant_sect_before (i : SectionId) : (grant c q r).sect i = (beforeReports c q r).sect i := by
  rw [grant_rest]
  rfl

theorem grant_of_moving (moving : ∃ l ∈ q.legs, ((grant c q r).sect l.sec).settle.isSome = true) :
    grant c q r = { grantReport c q.first q.last (beforeReports c q r) with settling := (beforeReports c q r).settling
      ++ [{ convoy := c, first := q.first, last := q.last, sections := q.legs.map Leg.sec }] } := by
  simp only [grant_sect_before] at moving
  have runs : (q.legs.any fun l => (beforeReports c q r).timerRuns l.sec) = true := List.any_eq_true.mpr moving
  rw [grant_eq, if_pos runs]

theorem grant_of_settled (settled : ∀ l ∈ q.legs, ((grant c q r).sect l.sec).settle = none) :
    grant c q r = settledReport c q.first q.last (grantReport c q.first q.last (beforeReports c q r)) := by
  simp only [grant_sect_before] at settled
  have still : ¬ (q.legs.any fun l => (beforeReports c q r).timerRuns l.sec) = true := by
    rw [List.any_eq_true]
    rintro ⟨l, listed, runs⟩
    have stopped : ((beforeReports c q r).sect l.sec).settle = none := settled l listed
    rw [Road.timerRuns, stopped] at runs
    cases runs
  rw [grant_eq, if_neg still]

theorem beforeReports_convoy (k : ConvoyId) : (beforeReports c q r).convoy k = r.convoy k := by
  rw [beforeReports_rest]
  rfl

theorem settling_cases (c : ConvoyId) (q : GroupRequest) (r : Road) :
    (∃ l ∈ q.legs, ((grant c q r).sect l.sec).settle.isSome = true)
      ∨ ∀ l ∈ q.legs, ((grant c q r).sect l.sec).settle = none := by
  by_cases moving : ∃ l ∈ q.legs, ((grant c q r).sect l.sec).settle.isSome = true
  · exact .inl moving
  · refine .inr fun l listed => ?_
    rw [← Option.not_isSome_iff_eq_none]
    exact fun runs => moving ⟨l, listed, runs⟩

theorem grant_convoy_moving (moving : ∃ l ∈ q.legs, ((grant c q r).sect l.sec).settle.isSome = true) :
    (grant c q r).convoy c = (r.convoy c).granted q.first q.last := by
  rw [grant_of_moving moving, ← beforeReports_convoy (c := c) (q := q) (r := r)]
  exact Road.convoy_setConvoy_self _ _ _

theorem grant_convoy_settled (settled : ∀ l ∈ q.legs, ((grant c q r).sect l.sec).settle = none) :
    (grant c q r).convoy c = ((r.convoy c).granted q.first q.last).settled q.first q.last := by
  rw [grant_of_settled settled, settledReport, grantReport, Road.convoy_setConvoy_self, Road.convoy_setConvoy_self,
    beforeReports_convoy]

theorem grant_convoy_other {k : ConvoyId} (other : k ≠ c) : (grant c q r).convoy k = r.convoy k := by
  rcases settling_cases c q r with moving | settled
  · rw [grant_of_moving moving, ← beforeReports_convoy (c := c) (q := q) (r := r)]
    exact Road.convoy_setConvoy_other _ _ _ other
  · rw [grant_of_settled settled, settledReport, grantReport, Road.convoy_setConvoy_other _ _ _ other,
      Road.convoy_setConvoy_other _ _ _ other, beforeReports_convoy]

theorem grant_sect_other {i : SectionId} (other : i ∉ q.legs.map Leg.sec) : (grant c q r).sect i = r.sect i := by
  rw [grant_rest]
  exact (setJunctions_sect_other other).trans (grantLegs_sect_other c other r)

/-! ## The furthest held index after a grant -/

theorem Convoy.restatus_route (v : Convoy) (first last : Nat) (a b : StepStatus) (n : Nat) :
    (v.restatus first last a b).route[n]? = (v.route[n]?).map fun u =>
      if first ≤ n ∧ n ≤ last ∧ u.status = a then { u with status := b } else u := by
  rw [Convoy.restatus_eq]
  exact List.getElem?_mapIdx

/-- Beyond the last step of a group its reports leave the steps as they are. -/
theorem Convoy.restatus_beyond {v : Convoy} {first last : Nat} {a b : StepStatus} {n : Nat} (above : last < n) :
    (v.restatus first last a b).holdsStep n ↔ v.holdsStep n := by
  have outside (u : RouteStep) : ¬ (first ≤ n ∧ n ≤ last ∧ u.status = a) := by omega
  simp [Convoy.holdsStep, Convoy.restatus_route, outside]

theorem Convoy.restatus_furthest {v : Convoy} {first last : Nat} {a b : StepStatus}
    (held : (v.restatus first last a b).holdsStep last) (beyond : ∀ n, last < n → ¬ v.holdsStep n) :
    (v.restatus first last a b).furthest = last := by
  have outside : ∀ n, last < n → ¬ (v.restatus first last a b).holdsStep n := fun n above holds =>
    beyond n above ((Convoy.restatus_beyond above).mp holds)
  rw [Convoy.restatus_eq] at held outside ⊢
  exact Convoy.furthest_of_last held outside

theorem Convoy.runIfClear_furthest (v : Convoy) : v.runIfClear.furthest = v.furthest := by
  unfold Convoy.runIfClear
  split <;> rfl

end Grant

/-- Settles O32. -/
theorem aGrantTakesTheWholeGroup : Obligations.AGrantTakesTheWholeGroup := by
  intro c q r once apart
  have requests : (grant c q r).requests = Table.put r.requests c none := grant_requests c q r
  have restated (v : Convoy) : v.granted q.first q.last = _ :=
    congrArg (fun w : Convoy => { w with asked := none }) (v.restatus_eq q.first q.last .requested .settling)
  refine ⟨fun l listed => ?leg, fun i other => grant_sect_other other, ?_, fun k other => ?_, ?_,
    fun k other => grant_convoy_other other, ?kept, fun settled => ?_, fun moving => ?_, ⟨fun moving => ?_, fun settled => ?_,
    fun t legs step requested beyond => ?furthest⟩, fun v => ⟨rfl, Convoy.tail_of_none, fun n low held first =>
    Convoy.tail_of_first low held first, Convoy.furthest_of_none, fun n held last => Convoy.furthest_of_last held last⟩⟩
  case leg =>
    have apart' : ∀ l ∈ q.legs, ∀ l' ∈ q.legs, l.sec ≠ l'.sec → ∀ j j', (askingEnded c q r).legJunction l = some j →
        (askingEnded c q r).legJunction l' = some j' → j.line ≠ j'.line := by
      intro l hl l' hl' differ j j' found found'
      rw [askingEnded_legJunction once hl, Road.legJunction_iff] at found
      rw [askingEnded_legJunction once hl', Road.legJunction_iff] at found'
      obtain ⟨d, defn, junction⟩ := found
      obtain ⟨d', defn', junction'⟩ := found'
      exact apart l hl l' hl' differ d d' j j' defn defn' junction junction'
    obtain ⟨x, sect, line, after⟩ := setJunctions_leg once apart' listed
    have final : (grant c q r).sect l.sec = (setJunction l x).sect l.sec := (grant_sect_before _).trans after
    rw [askingEnded_sect once listed] at sect
    obtain ⟨o, edited⟩ := setJunction_sect_settle (l := l) (r := x)
    rw [sect] at edited
    refine ⟨?_, ?_, ?_, ?_, fun d j defn junction => ?_⟩
    · rw [final, edited]; rfl
    · rw [final, edited]; rfl
    · rw [final, edited]; simp [Section.grantedTo]
    · rw [final, edited]; rfl
    · have found : r.legJunction l = some j := (r.legJunction_iff l j).mpr ⟨d, defn, junction⟩
      have found' : (askingEnded c q r).legJunction l = some j := by rw [askingEnded_legJunction once listed, found]
      obtain ⟨lineBefore, lineAfter⟩ := line j found'
      have foundX : x.legJunction l = some j := by
        rw [Road.legJunction, sect]
        exact found
      rw [askingEnded_line] at lineBefore
      have finalLine : (grant c q r).line j.line = (setJunction l x).line j.line := by
        rw [← lineAfter, grant_rest]
        rfl
      refine ⟨?_, ?_⟩
      · rw [finalLine, setJunction_line foundX, lineBefore]
      · rw [final, setJunction_sect foundX, lineBefore, sect]
        rfl
  · rw [Road.request, requests, Table.at_put_self]
  · rw [Road.request, requests, Table.at_put_other _ other]
    rfl
  · rw [grant_rest, beforeReports_rest]
    simp
  case kept =>
    rcases settling_cases c q r with moving | settled
    · rw [grant_convoy_moving moving]
      exact Convoy.kept_granted _ _ _
    · rw [grant_convoy_settled settled]
      exact (Convoy.kept_granted _ _ _).trans (Convoy.kept_settled _ _ _)
  · rw [grant_of_settled settled, settledReport, grantReport, Road.setConvoy_settling, Road.setConvoy_settling, beforeReports_rest]
  · rw [grant_of_moving moving, beforeReports_rest]
  · rw [grant_convoy_moving moving, restated]
    rfl
  · rw [grant_convoy_settled settled, Convoy.settled_eq, restated]
    rfl
  case furthest =>
    have many : 0 < q.legs.length := List.length_pos_iff.mpr legs
    have inGroup : q.first ≤ q.last := by unfold GroupRequest.last; omega
    have stepLast : (r.convoy c).route[q.last]? = some t := step
    have nothing : ∀ n, q.last < n → ¬ (r.convoy c).holdsStep n := fun n above ⟨u, at_n, held⟩ => by
      obtain ⟨notSettling, notHeld⟩ := beyond n u above at_n
      exact held.elim notSettling notHeld
    have granted : ((r.convoy c).restatus q.first q.last .requested .settling).route[q.last]?
        = some { t with status := .settling } := by
      rw [Convoy.restatus_route, stepLast]
      simp [inGroup, requested]
    rcases settling_cases c q r with moving | settled
    · rw [grant_convoy_moving moving]
      exact Convoy.restatus_furthest ⟨_, granted, .inl rfl⟩ nothing
    · have grantedRoute : ((r.convoy c).granted q.first q.last).route[q.last]? = some { t with status := .settling } := granted
      have beyondToo : ∀ n, q.last < n → ¬ ((r.convoy c).granted q.first q.last).holdsStep n := fun n above holds =>
        nothing n above ((Convoy.restatus_beyond (first := q.first) (a := .requested) (b := .settling) above).mp holds)
      rw [grant_convoy_settled settled, Convoy.settled, Convoy.runIfClear_furthest]
      refine Convoy.restatus_furthest ⟨{ t with status := .held }, ?_, .inr rfl⟩ beyondToo
      rw [Convoy.restatus_route, grantedRoute]
      simp [inGroup]

end Sys2Proof.Machine
end

section
/-! FCV and DCV (R53 to R55). -/

namespace Sys2Proof.Machine

/-! ## Reading FCV -/

theorem demandSourceOf_bytes (src : DemandSource) :
    ∃ code num, demandSourceBytes src = [code, num] ∧ demandSourceOf? code.toNat num.toNat = some src := by
  cases src with
  | host => exact ⟨0, 0xFF, rfl, rfl⟩
  | timetable => exact ⟨1, 0xFF, rfl, rfl⟩
  | driver d =>
    refine ⟨2, b8 d.val, rfl, ?_⟩
    simp [demandSourceOf?, index?_b8 d (by decide : 8 ≤ 256)]

theorem memberOf_bytes {m : Member} (fresh : m.trailers ≤ 2 ∧ m.trim = 0 ∧ m.lastGap = none) :
    memberOf? (b8 m.slot.val, b8 m.trailers) = some m := by
  obtain ⟨slot, trailers, trim, lastGap⟩ := m
  obtain ⟨few, rfl, rfl⟩ := fresh
  have value : (b8 trailers).toNat = trailers := b8_toNat (by dsimp only at few; omega)
  dsimp only at few
  simp [memberOf?, index?_b8 slot (by decide : 24 ≤ 256), value, few]

theorem answerFcv_body {f : Formation} {p : Part} (some : 1 ≤ f.members.length) (few : f.members.length ≤ 6)
    (fresh : ∀ m ∈ f.members, m.trailers ≤ 2 ∧ m.trim = 0 ∧ m.lastGap = none) :
    answerFcv (fcvBody f) p =
      if (p.road.convoy f.convoy).state.formed then refuse .badState p
      else if p.road.slotsInUse f then refuse .inUse p
      else
        match (p.road.sect f.home).status, (p.road.sect f.home).defn with
        | .free, Option.some d =>
          if d.allows f.dir then accept (p.onRoad (formConvoy f d)).reviewHalts else refuse .badVal p
        | _, _ => refuse .badState p := by
  obtain ⟨code, num, bytes, source⟩ := demandSourceOf_bytes f.source
  have pairs := pairsOf_flatMap (fun m : Member => b8 m.slot.val) (fun m => b8 m.trailers) f.members
  have count : (b8 f.members.length).toNat = f.members.length := b8_toNat (by omega)
  have read : readFcv (fcvBody f) = Option.some
      { convoy := b8 f.convoy.val, home := b8 f.home.val, dir := b8 (dirCode f.dir), travel := b8 (travelCode f.travel),
        source := code, driver := num, members := f.members.map fun m => (b8 m.slot.val, b8 m.trailers) } := by
    simp [readFcv, fcvBody, bytes, pairs, count]
  have members := mapM_map_some (f := memberOf?) (g := fun m : Member => (b8 m.slot.val, b8 m.trailers)) (h := id) f.members
    fun m hm => memberOf_bytes (fresh m hm)
  have dir : dirOf? (b8 (dirCode f.dir)).toNat = Option.some f.dir := by cases f.dir <;> rfl
  have travel : travelOf? (b8 (travelCode f.travel)).toNat = Option.some f.travel := by cases f.travel <;> rfl
  rw [List.map_id] at members
  have formation : FcvReq.formation?
      { convoy := b8 f.convoy.val, home := b8 f.home.val, dir := b8 (dirCode f.dir), travel := b8 (travelCode f.travel),
        source := code, driver := num, members := f.members.map fun m => (b8 m.slot.val, b8 m.trailers) }
    = Option.some f := by
    simp [FcvReq.formation?, index?_b8 f.convoy (by decide : 8 ≤ 256), index?_b8 f.home (by decide : 64 ≤ 256), dir, travel,
      source, members, some, few]
  simp only [answerFcv, read, fcv, formation] <;> rfl

/-! ## The checks of FCV (R53) -/

theorem ConvoyState.formed_iff (st : ConvoyState) : st.formed = true ↔ st ≠ .vacant := by
  cases st <;> simp [ConvoyState.formed]

theorem Road.slotTaken_iff (r : Road) (c : ConvoyId) (i : SlotId) :
    r.slotTaken c i = true ↔ ∃ k, k ≠ c ∧ ∃ n ∈ (r.convoy k).members, n.slot = i := by
  simp only [Road.slotTaken, List.any_eq_true, Table.mem_entries, Bool.and_eq_true, decide_eq_true_eq, Road.convoy]
  constructor
  · rintro ⟨⟨k, v⟩, entry, other, stands⟩
    obtain rfl : v = Table.at r.convoys k := entry
    exact ⟨k, other, stands⟩
  · rintro ⟨k, other, stands⟩
    exact ⟨(k, Table.at r.convoys k), rfl, other, stands⟩

theorem Road.slotsInUse_iff (r : Road) (f : Formation) :
    r.slotsInUse f = true ↔ ¬ ((f.members.map Member.slot).Nodup
      ∧ ∀ k, k ≠ f.convoy → ∀ n ∈ (r.convoy k).members, ∀ m ∈ f.members, n.slot ≠ m.slot) := by
  simp only [Road.slotsInUse, Bool.or_eq_true, Bool.not_eq_true', decide_eq_false_iff_not, List.any_eq_true, Road.slotTaken_iff]
  grind

theorem SectionDef.allows_iff (d : SectionDef) (dir : Dir) : d.allows dir = true ↔ ∀ a, d.allowed = some a → dir = a := by
  unfold SectionDef.allows
  cases d.allowed with
  | none => simp
  | some a => simp [eq_comm]

theorem Road.homeBranch_eq (r : Road) (d : SectionDef) : r.homeBranch d = r.branchNow d := by
  unfold Road.homeBranch Road.branchNow Road.carried
  cases d.junction <;> rfl

/-- Settles O34, check by check. -/
theorem fcvFormsAConvoy : Obligations.FcvFormsAConvoy := by
  intro f tag s ready some few fresh
  have answer := answerFcv_body (p := s.part) some few fresh
  refine ⟨fun vacant slotsFree free d defn => ⟨fun fits => ?formed, fun misfit => ?misfit⟩, fun formed => ?taken,
    fun vacant inUse => ?slots, fun vacant slotsFree busy => ?busy⟩
  case taken =>
    rw [if_pos ((ConvoyState.formed_iff _).mpr formed)] at answer
    exact exec_answers ready answer rfl rfl
  all_goals rw [if_neg (mt (ConvoyState.formed_iff _).mp (not_not_intro vacant))] at answer
  case slots =>
    rw [if_pos ((s.part.road.slotsInUse_iff f).mpr inUse)] at answer
    exact exec_answers ready answer rfl rfl
  all_goals rw [if_neg (mt (s.part.road.slotsInUse_iff f).mp (not_not_intro slotsFree))] at answer
  case busy =>
    refine exec_answers ready (answer.trans ?_) rfl rfl
    split
    next free _ => exact absurd free busy
    next => rfl
  case misfit =>
    rw [free, defn] at answer
    dsimp only at answer
    rw [if_neg (mt (d.allows_iff f.dir).mp misfit)] at answer
    exact exec_answers ready answer rfl rfl
  case formed =>
    rw [free, defn] at answer
    dsimp only at answer
    rw [if_pos ((d.allows_iff f.dir).mpr fits)] at answer
    have kept := (kept_formConvoy f d s.part.road).trans (kept_reviewHalts s.part.cells s.part.drivers _)
    have done := answer.trans (congrArg accept (reviewHalts_onRoad _ _))
    rw [Road.homeBranch_eq] at kept
    simp only [formConvoy, Road.homeBranch_eq] at done
    refine ⟨_, exec_answers ready done rfl rfl, ?_, rfl, fun unmarked clear => ?_⟩
    · simp only [formConvoy, Road.homeBranch_eq] at kept
      exact kept
    · simp only [unmarked, Option.isSome_none, Bool.false_eq_true, if_false]
      exact clear.road

/-! ## DCV (R55) -/

theorem leaveHolder_settled {secs : List SectionId} {r : Road} (settling : r.settling = []) :
    leaveHolder secs r = { r with
      sections := Table.mapAll (fun i w => if i ∈ secs then { w with settle := none } else w) r.sections } := by
  have empty : (leaveRecords secs r).settling = [] := by rw [leaveRecords_eq, Road.reduced, settling]; rfl
  have sections : (leaveRecords secs r).sections
      = Table.mapAll (fun i w => if i ∈ secs then { w with settle := none } else w) r.sections := by
    apply Table.ext
    intro i
    rw [Table.at_mapAll]
    exact leaveRecords_sect secs r i
  rw [leaveHolder, reviewSettling_nil _ empty, ← sections, leaveRecords_eq, Road.reduced, settling]
  rfl

theorem disband_eq (c : ConvoyId) (r : Road) :
    disband c r = (leaveHolder ((List.finRange 64).filter fun i => ((withdrawAsked c r).sect i).heldBy c)
      { withdrawAsked c r with
        sections := Table.mapAll (fun _ u => if u.heldBy c then { u with status := .out .disbanded } else u)
          (withdrawAsked c r).sections }).setConvoy c
        Convoy.vacant := by
  have sections : Table.mapAll (fun i u => if i ∈ (withdrawAsked c r).heldSections c then { u with status := .out .disbanded } else u)
      (withdrawAsked c r).sections
    = Table.mapAll (fun _ u => if u.heldBy c then { u with status := .out .disbanded } else u) (withdrawAsked c r).sections := by
    apply Table.ext
    intro i
    simp only [Table.at_mapAll, Road.heldSections, Table.mem_numbers]
  rw [disband, disbandSections_eq, sections]
  rfl

/-- The disbanding of a convoy that asks for nothing, where nothing settles. -/
theorem disband_quiet {c : ConvoyId} {r : Road} (unasked : (r.convoy c).asked = none) (norequest : r.request c = none)
    (settling : r.settling = []) :
    disband c r = { r with
      sections := Table.mapAll (fun _ w => if w.heldBy c then { w with status := .out .disbanded, settle := none } else w) r.sections
      convoys := Table.put r.convoys c Convoy.vacant } := by
  have sections : Table.mapAll (fun i w => if i ∈ (List.finRange 64).filter fun i => (r.sect i).heldBy c
        then { w with settle := none } else w)
      (Table.mapAll (fun _ u => if u.heldBy c then { u with status := .out .disbanded } else u) r.sections)
    = Table.mapAll (fun _ w => if w.heldBy c then { w with status := .out .disbanded, settle := none } else w) r.sections := by
    apply Table.ext
    intro i
    simp only [Table.at_mapAll, List.mem_filter, List.mem_finRange, true_and, Road.sect]
    split <;> rfl
  rw [disband_eq, withdrawAsked_none c r unasked norequest, leaveHolder_settled (by exact settling)]
  dsimp only
  rw [sections]
  rfl

theorem answerDcv_accepted {c : ConvoyId} {p : Part}
    (stands : (p.road.convoy c).state = .plain .standing ∨ (p.road.convoy c).state = .plain .arrived) :
    answerDcv [b8 c.val] p = accept (p.onRoad (disband c)).reviewHalts := by
  simp only [answerDcv, dcv, index?_b8 c (by decide : 8 ≤ 256), Bool.or_eq_true, decide_eq_true_eq, if_pos stands]

theorem answerDcv_refused {c : ConvoyId} {p : Part}
    (moves : ¬ ((p.road.convoy c).state = .plain .standing ∨ (p.road.convoy c).state = .plain .arrived)) :
    answerDcv [b8 c.val] p = refuse .badState p := by
  simp only [answerDcv, dcv, index?_b8 c (by decide : 8 ≤ 256), Bool.or_eq_true, decide_eq_true_eq, if_neg moves]

theorem Section.kept_of_same {u v w : Section} (kept : Section.Kept u w) (defn : v.defn = u.defn) (status : v.status = u.status) :
    Section.Kept v w := (Section.Kept.of_status defn.symm status.symm).trans kept

/-- What a section is after its convoy has been disbanded and the halts reviewed. -/
theorem disband_sect (c : ConvoyId) (cells : Table Cell 8) (drivers : DriverPort) (r : Road) (i : SectionId) :
    Section.Kept (if (r.sect i).heldBy c then { (withdrawAsked c r).sect i with status := .out .disbanded }
      else (withdrawAsked c r).sect i) ((reviewHalts cells drivers (disband c r)).sect i) := by
  obtain ⟨-, holds, -⟩ := withdrawAsked_spec c r
  have left := kept_leaveHolder ((List.finRange 64).filter fun i => ((withdrawAsked c r).sect i).heldBy c)
    { withdrawAsked c r with
      sections := Table.mapAll (fun _ u => if u.heldBy c then { u with status := .out .disbanded } else u)
        (withdrawAsked c r).sections }
  have reviewed := kept_reviewHalts cells drivers (disband c r)
  have before := left.sections i
  have after := reviewed.sections i
  simp only [Road.sect, Table.at_mapAll] at before
  change Section.Kept (if ((withdrawAsked c r).sect i).heldBy c = true then _ else _) _ at before
  rw [holds i] at before
  rw [disband_eq] at after ⊢
  exact before.trans after

/-- Settles O35. -/
theorem dcvDisbandsAConvoy : Obligations.DcvDisbandsAConvoy := by
  intro c tag s ready
  refine ⟨fun stands => ?disbanded, fun notStanding notArrived =>
    exec_answers ready (answerDcv_refused fun h => h.elim notStanding notArrived) rfl rfl⟩
  have answer := (answerDcv_accepted stands).trans (congrArg accept (reviewHalts_onRoad _ _))
  have sect := disband_sect c s.part.cells s.part.drivers s.part.road
  have convoy := (kept_reviewHalts s.part.cells s.part.drivers (disband c s.part.road)).convoys c
  have vacant : (disband c s.part.road).convoy c = Convoy.vacant := Road.convoy_setConvoy_self _ _ _
  rw [vacant] at convoy
  refine ⟨_, exec_answers ready answer rfl rfl, convoy, ?_, ?_, ?_, fun i held => ?_, fun i unheld => ?_,
    fun unasked norequest => ⟨fun i => ?_, fun settling clear => ?_⟩⟩
  · have formed := convoy.formed
    rw [← not_ne_iff, ← ConvoyState.formed_iff, formed]
    simp [Convoy.vacant, ConvoyState.formed]
  · have slots := convoy.slots
    simpa [Convoy.vacant] using slots
  · rw [disband_eq]
  · have kept := sect i
    rw [if_pos held] at kept
    exact ⟨kept.status (by simp), kept.defn.trans ((kept_withdrawAsked c s.part.road).sections i).defn⟩
  · have kept := sect i
    rw [if_neg (by simp [unheld])] at kept
    exact ((kept_withdrawAsked c s.part.road).sections i).trans kept
  · have kept := sect i
    rw [withdrawAsked_none c s.part.road unasked norequest] at kept
    by_cases held : (s.part.road.sect i).heldBy c = true
    · rw [if_pos held] at kept
      dsimp only
      rw [if_pos held]
      exact Section.kept_of_same kept rfl rfl
    · rw [if_neg held] at kept
      dsimp only
      rw [if_neg held]
      exact kept
  · rw [disband_quiet unasked norequest settling]
    exact clear.road

end Sys2Proof.Machine
end

section
/-! LRT (R56 to R58). -/

namespace Sys2Proof.Machine

/-! ## Reading LRT -/

/-- A step as LRT loads it: AHEAD. -/
def RouteStep.loaded (t : RouteStep) : RouteStep := { t with status := .ahead }

theorem stepOf_bytes (t : RouteStep) : stepOf? (b8 t.sec.val, t.flags) = some t.loaded := by
  have index : index? 64 (b8 t.sec.val).toNat = some t.sec := index?_b8 t.sec (by decide)
  have dirSmall : dirCode t.dir < 2 := by cases t.dir <;> decide
  have branchSmall : branchCode t.branch < 4 := by cases t.branch <;> decide
  have linkSmall : t.link.toNat < 2 := Bool.toNat_lt t.link
  have travelSmall : travelCode t.travel < 2 := by cases t.travel <;> decide
  have flags : t.flags.toNat = dirCode t.dir + 2 * branchCode t.branch + 8 * t.link.toNat + 16 * travelCode t.travel :=
    b8_toNat (by omega)
  have dir : t.flags.toNat % 2 = dirCode t.dir := by omega
  have branch : t.flags.toNat / 2 % 4 = branchCode t.branch := by omega
  have link : t.flags.toNat / 8 % 2 = t.link.toNat := by omega
  have travel : t.flags.toNat / 16 = travelCode t.travel := by omega
  simp only [stepOf?, index, dir, branch, link, travel, dirOf_code, branchOf_code, flagOf_toNat, travelOf_code]
  rfl

theorem answerLrt_body {c : ConvoyId} {steps : List RouteStep} {p : Part} (some : 1 ≤ steps.length) (few : steps.length ≤ 16) :
    answerLrt (lrtBody c steps) p =
      match p.road.standsIn c with
      | none => refuse .badState p
      | Option.some (i, h) =>
        if p.road.routeValid i (steps.map RouteStep.loaded) then
          accept (p.onRoad (loadRoute c i h (steps.map RouteStep.loaded)))
        else refuse .badRoute p := by
  have pairs := pairsOf_flatMap (fun t : RouteStep => b8 t.sec.val) RouteStep.flags steps
  have count : (b8 steps.length).toNat = steps.length := b8_toNat (by omega)
  have read : readLrt (lrtBody c steps) = Option.some ⟨b8 c.val, steps.map fun t => (b8 t.sec.val, t.flags)⟩ := by
    simp [readLrt, lrtBody, pairs, count]
  have loaded := mapM_map_some (f := stepOf?) (g := fun t : RouteStep => (b8 t.sec.val, t.flags)) (h := RouteStep.loaded)
    steps fun t _ => stepOf_bytes t
  have route : LrtReq.route? ⟨b8 c.val, steps.map fun t => (b8 t.sec.val, t.flags)⟩
      = Option.some (c, steps.map RouteStep.loaded) := by
    simp [LrtReq.route?, index?_b8 c (by decide : 8 ≤ 256), loaded, some, few]
  simp only [answerLrt, read, lrt, route] <;> rfl

/-! ## Where a convoy stands (R56) -/

/-- The whole convoy stands in section `i`. -/
def Road.Stands (r : Road) (c : ConvoyId) (i : SectionId) (h : Holding) : Prop :=
  ((r.convoy c).state = .plain .standing ∨ (r.convoy c).state = .plain .arrived) ∧ (∀ t ∈ r.settling, t.convoy ≠ c)
    ∧ (∀ j, (r.sect j).heldBy c = true ↔ j = i) ∧ (r.sect i).status = .occupied h
    ∧ h.entered = (r.convoy c).members.length ∧ h.exited = 0

theorem Road.heldSections_eq_singleton (r : Road) (c : ConvoyId) (i : SectionId) :
    r.heldSections c = [i] ↔ ∀ j, (r.sect j).heldBy c = true ↔ j = i := by
  have listed (j : SectionId) : j ∈ r.heldSections c ↔ (r.sect j).heldBy c = true := Table.mem_numbers _ _ _
  have nodup : (r.heldSections c).Nodup := by
    rw [Road.heldSections, Table.numbers]
    exact (List.nodup_finRange 64).filter _
  rw [← List.perm_singleton, List.perm_ext_iff_of_nodup nodup (List.nodup_singleton i)]
  simp only [listed, List.mem_singleton]

theorem Road.standsIn_eq_some (r : Road) (c : ConvoyId) (i : SectionId) (h : Holding) :
    r.standsIn c = some (i, h) ↔ r.Stands c i h := by
  have still : ((decide ((r.convoy c).state = .plain .standing) || decide ((r.convoy c).state = .plain .arrived))
      && !r.settling.any fun t => decide (t.convoy = c)) = true
      ↔ ((r.convoy c).state = .plain .standing ∨ (r.convoy c).state = .plain .arrived) ∧ ∀ t ∈ r.settling, t.convoy ≠ c := by
    simp
  unfold Road.Stands
  rw [← Road.heldSections_eq_singleton]
  constructor
  · intro stands
    simp only [Road.standsIn] at stands
    split at stands
    next stood =>
      obtain ⟨state, unsettled⟩ := still.mp stood
      split at stands
      next k held =>
        split at stands
        next g occupied =>
          split at stands
          next counts =>
            cases stands
            simp only [Bool.and_eq_true, decide_eq_true_eq] at counts
            exact ⟨state, unsettled, held, occupied, counts⟩
          next => cases stands
        next => cases stands
      next => cases stands
    next => cases stands
  · rintro ⟨state, unsettled, held, occupied, entered, exited⟩
    simp only [Road.standsIn, if_pos (still.mpr ⟨state, unsettled⟩), held, occupied, exited]
    simp [entered, Convoy.memberCount]

/-! ## The nine conditions of R57 -/

/-- The steps with their sections' definitions, all of which are defined (check 2). -/
theorem Road.defined_eq_some (r : Road) (steps : List RouteStep) (ds : List (RouteStep × SectionDef)) :
    r.defined? steps = some ds ↔ ds.map Prod.fst = steps ∧ ∀ e ∈ ds, (r.sect e.1.sec).defn = some e.2 := by
  unfold Road.defined?
  induction steps generalizing ds with
  | nil =>
    cases ds with
    | nil => simp
    | cons e es => simp
  | cons t ts ih =>
    cases ds with
    | nil => simp [List.mapM_cons, Option.bind_eq_some_iff]
    | cons e es =>
      simp only [List.mapM_cons, List.map_cons, List.cons.injEq, List.mem_cons, forall_eq_or_imp]
      rw [and_and_and_comm, ← ih es]
      obtain ⟨u, d⟩ := e
      cases defn : (r.sect t.sec).defn with
      | none =>
        simp
        rintro rfl found
        rw [defn] at found
        cases found
      | some d' =>
        simp only [Option.map_some]
        cases rest : ts.mapM fun t => (r.sect t.sec).defn.map fun d => (t, d) with
        | none => simp
        | some es' =>
          simp
          grind

theorem Road.defined_of_all {r : Road} {steps : List RouteStep} (all : ∀ t ∈ steps, (r.sect t.sec).defn.isSome = true) :
    ∃ ds, r.defined? steps = some ds := by
  unfold Road.defined?
  induction steps with
  | nil => exact ⟨[], rfl⟩
  | cons t ts ih =>
    obtain ⟨d, defn⟩ := Option.isSome_iff_exists.mp (all t List.mem_cons_self)
    obtain ⟨ds, rest⟩ := ih fun u later => all u (List.mem_cons_of_mem _ later)
    exact ⟨(t, d) :: ds, by simp [List.mapM_cons, defn, rest]⟩

theorem chained_iff (ds : List (RouteStep × SectionDef)) :
    chained ds = true ↔ ∀ n a b, ds[n]? = some a → ds[n + 1]? = some b →
      (a.2.exitMarker a.1.dir).isSome = true ∧ b.2.entryMarker b.1.dir = a.2.exitMarker a.1.dir := by
  induction ds with
  | nil => simp [chained]
  | cons a ds ih =>
    cases ds with
    | nil => simp [chained]
    | cons b rest =>
      simp only [chained, Bool.and_eq_true, decide_eq_true_eq, ih]
      constructor
      · rintro ⟨⟨ends, meets⟩, later⟩ n x y at_n at_next
        cases n with
        | zero =>
          cases at_n
          cases at_next
          exact ⟨ends, meets.symm⟩
        | succ n => exact later n x y at_n at_next
      · intro all
        obtain ⟨ends, meets⟩ := all 0 a b rfl rfl
        exact ⟨⟨ends, meets.symm⟩, fun n x y at_n at_next => all (n + 1) x y at_n at_next⟩

theorem fourLinks_iff (links : List Bool) : fourLinks links = true ↔ ∃ n, ∀ k < 4, links[n + k]? = some true := by
  induction links with
  | nil =>
    simp only [fourLinks, Bool.false_eq_true, false_iff, not_exists]
    exact fun n all => by simpa using all 0 (by omega)
  | cons a links ih =>
    have shift : (∃ n, ∀ k < 4, (a :: links)[n + k]? = some true)
        ↔ (∀ k < 4, (a :: links)[k]? = some true) ∨ ∃ n, ∀ k < 4, links[n + k]? = some true := by
      constructor
      · rintro ⟨n, all⟩
        cases n with
        | zero => exact .inl fun k small => by simpa using all k small
        | succ n => exact .inr ⟨n, fun k small => by simpa [Nat.succ_add] using all k small⟩
      · rintro (first | ⟨n, all⟩)
        · exact ⟨0, fun k small => by simpa using first k small⟩
        · exact ⟨n + 1, fun k small => by simpa [Nat.succ_add] using all k small⟩
    have four : (∀ k < 4, (a :: links)[k]? = some true)
        ↔ a = true ∧ links[0]? = some true ∧ links[1]? = some true ∧ links[2]? = some true := by
      constructor
      · intro all
        exact ⟨by simpa using all 0 (by omega), by simpa using all 1 (by omega), by simpa using all 2 (by omega),
          by simpa using all 3 (by omega)⟩
      · rintro ⟨rfl, second, third, fourth⟩ k small
        interval_cases k
        · rfl
        · exact second
        · exact third
        · exact fourth
    rw [shift, ← ih, four]
    match links with
    | [] => simp [fourLinks]
    | [b] => simp [fourLinks]
    | [b, c] => simp [fourLinks]
    | b :: c :: d :: rest => simp [fourLinks, and_assoc]

theorem linksFit_iff {links : List Bool} (some : links ≠ []) :
    linksFit links = true ↔ (∀ b, links.head? = Option.some b → b = false) ∧ (∀ b, links.getLast? = Option.some b → b = false)
      ∧ ¬ ∃ n, ∀ k < 4, links[n + k]? = Option.some true := by
  rw [← fourLinks_iff]
  obtain ⟨first, head⟩ := Option.isSome_iff_exists.mp (List.isSome_head?.mpr some)
  obtain ⟨last, tail⟩ : ∃ b, links.getLast? = Option.some b := ⟨links.getLast some, List.getLast?_eq_some_getLast some⟩
  simp [linksFit, head, tail, and_assoc]

theorem RouteStep.fits_iff (t : RouteStep) (d : SectionDef) :
    t.fits d = true ↔ (∀ a, d.allowed = some a → t.dir = a) ∧ (t.branch = .plain ↔ d.junction = none) := by
  rw [RouteStep.fits, Bool.and_eq_true, SectionDef.allows_iff, beq_iff_eq, Bool.eq_iff_iff, decide_eq_true_eq,
    Option.isNone_iff_eq_none]

theorem RouteStep.dockFits_iff (t : RouteStep) (n len : Nat) (d : SectionDef) :
    t.dockFits n len d = true ↔ (d.kind = .dock → 2 ≤ len →
      if n = 0 then t.dir = .bToA ∧ t.travel = .reverse else t.dir = .aToB ∧ n + 1 = len) := by
  unfold RouteStep.dockFits
  by_cases dock : d.kind = .dock ∧ 2 ≤ len
  · simp only [dock, decide_true, Bool.and_true, if_true, true_imp_iff]
    split <;> simp
  · have exempt : (decide (d.kind = .dock) && decide (2 ≤ len)) = false := by
      rw [← Bool.not_eq_true, Bool.and_eq_true, decide_eq_true_eq, decide_eq_true_eq]
      exact dock
    simp only [exempt, Bool.false_eq_true, if_false, true_iff]
    exact fun kind long => absurd ⟨kind, long⟩ dock

/-- The branch of the first step, for a step whose branch suits its section (checks 8 and 9 of R57). -/
theorem Road.firstBranch_iff {r : Road} {t : RouteStep} {d : SectionDef} {ds : List (RouteStep × SectionDef)}
    (suits : t.branch = .plain ↔ d.junction = none) : r.firstBranchFits ((t, d) :: ds) = true ↔ t.branch = r.branchNow d := by
  rw [← Road.homeBranch_eq]
  simp only [Road.firstBranchFits, Road.homeBranch]
  cases hj : d.junction with
  | none => simp [suits.mpr hj]
  | some j => simp

section Valid

variable {r : Road} {i : SectionId} {steps : List RouteStep} {ds : List (RouteStep × SectionDef)}
  (found : r.defined? (steps.map RouteStep.loaded) = some ds)
include found

/-- A step with its definition, among the steps with theirs. -/
theorem Road.defined_lookup {n : Nat} {t : RouteStep} {d : SectionDef} (step : steps[n]? = some t)
    (defn : (r.sect t.sec).defn = some d) : ds[n]? = some (t.loaded, d) := by
  obtain ⟨fst, defns⟩ := (r.defined_eq_some _ ds).mp found
  have same : (ds[n]?).map Prod.fst = some t.loaded := by rw [← List.getElem?_map, fst, List.getElem?_map, step]; rfl
  obtain ⟨⟨u, d'⟩, entry, rfl⟩ := Option.map_eq_some_iff.mp same
  have defn' := defns _ (List.mem_of_getElem? entry)
  rw [show (r.sect (t.loaded, d').1.sec).defn = some d from defn] at defn'
  rw [entry, Option.some.inj defn']

theorem Road.defined_step {n : Nat} {e : RouteStep × SectionDef} (entry : ds[n]? = some e) :
    ∃ t, steps[n]? = some t ∧ e.1 = t.loaded ∧ (r.sect t.sec).defn = some e.2 := by
  obtain ⟨fst, defns⟩ := (r.defined_eq_some _ ds).mp found
  have same : (steps[n]?).map RouteStep.loaded = some e.1 := by rw [← List.getElem?_map, ← fst, List.getElem?_map, entry]; rfl
  obtain ⟨t, step, loaded⟩ := Option.map_eq_some_iff.mp same
  refine ⟨t, step, loaded.symm, ?_⟩
  have defn := defns e (List.mem_of_getElem? entry)
  rwa [← loaded] at defn

theorem Road.defined_length : ds.length = steps.length := by
  obtain ⟨fst, -⟩ := (r.defined_eq_some _ ds).mp found
  simpa using congrArg List.length fst

theorem Road.defined_mem {t : RouteStep} {d : SectionDef} (listed : t ∈ steps) (defn : (r.sect t.sec).defn = some d) :
    (t.loaded, d) ∈ ds := by
  obtain ⟨n, step⟩ := List.getElem?_of_mem listed
  exact List.mem_of_getElem? (Road.defined_lookup found step defn)

theorem Road.defined_of_mem {e : RouteStep × SectionDef} (listed : e ∈ ds) :
    ∃ t ∈ steps, e.1 = t.loaded ∧ (r.sect t.sec).defn = some e.2 := by
  obtain ⟨n, entry⟩ := List.getElem?_of_mem listed
  obtain ⟨t, step, loaded, defn⟩ := Road.defined_step found entry
  exact ⟨t, List.mem_of_getElem? step, loaded, defn⟩

end Valid

section Checks

variable {r : Road} {i : SectionId} {steps : List RouteStep} {ds : List (RouteStep × SectionDef)}

theorem Road.routeValid_of_defined (found : r.defined? (steps.map RouteStep.loaded) = some ds) :
    r.routeValid i (steps.map RouteStep.loaded) = true ↔
      steps.head?.map RouteStep.sec = some i ∧ (steps.map RouteStep.sec).Nodup ∧ (∀ e ∈ ds, e.1.fits e.2 = true)
        ∧ (∀ (n : Nat) (e : RouteStep × SectionDef), ds[n]? = some e → e.1.dockFits n ds.length e.2 = true) ∧ chained ds = true
        ∧ linksFit (steps.map RouteStep.link) = true ∧ r.firstBranchFits ds = true := by
  have sections : (steps.map RouteStep.loaded).map RouteStep.sec = steps.map RouteStep.sec := by
    rw [List.map_map]; rfl
  have links : (steps.map RouteStep.loaded).map RouteStep.link = steps.map RouteStep.link := by
    rw [List.map_map]; rfl
  have head : (steps.map RouteStep.loaded).head?.map RouteStep.sec = steps.head?.map RouteStep.sec := by
    cases steps <;> rfl
  simp only [Road.routeValid, found, Bool.and_eq_true, decide_eq_true_eq, sections, links, head, List.all_eq_true, and_assoc]
  refine and_congr_right fun _ => and_congr_right fun _ => and_congr_right fun _ => and_congr ?_ Iff.rfl
  constructor
  · intro all n e entry
    have dock := all n (List.mem_range.mpr (List.getElem?_eq_some_iff.mp entry).1)
    rwa [entry] at dock
  · intro all n _
    split
    next e entry => exact all n e entry
    next => rfl

/-- The checks of R57 as the model makes them are its nine conditions. -/
theorem Road.routeValid_iff (some : 1 ≤ steps.length) :
    r.routeValid i (steps.map RouteStep.loaded) = true ↔ RouteFits r i steps := by
  have nonempty : steps.map RouteStep.link ≠ [] := by
    rw [Ne, List.map_eq_nil_iff, ← List.length_eq_zero_iff]
    omega
  obtain ⟨first, rest, rfl⟩ : ∃ first rest, steps = first :: rest := List.exists_cons_of_length_pos some
  constructor
  · intro valid
    cases found : r.defined? ((first :: rest).map RouteStep.loaded) with
    | none =>
      simp only [Road.routeValid, found] at valid
      cases valid
    | some ds =>
      obtain ⟨head, once, fits, docks, chain, links, points⟩ := (Road.routeValid_of_defined found).mp valid
      rw [linksFit_iff nonempty] at links
      rw [chained_iff] at chain
      have suits {t : RouteStep} (listed : t ∈ first :: rest) {d : SectionDef} (defn : (r.sect t.sec).defn = Option.some d) :=
        (t.loaded.fits_iff d).mp (fits _ (Road.defined_mem found listed defn))
      refine ⟨head, fun t listed => ?_, once, fun t listed d defn => (suits listed defn).1, fun n t d step defn kind long => ?_,
        fun n t u d e at_n at_next defn defn' => ?_, ?_, fun t listed d defn => (suits listed defn).2, fun t d isFirst defn => ?_⟩
      · obtain ⟨fst, defns⟩ := (r.defined_eq_some _ ds).mp found
        have loaded : t.loaded ∈ ds.map Prod.fst := by rw [fst]; exact List.mem_map_of_mem listed
        obtain ⟨e, entry, same⟩ := List.mem_map.mp loaded
        have defn := defns e entry
        rw [same] at defn
        exact Option.isSome_iff_exists.mpr ⟨_, defn⟩
      · have dock := docks n _ (Road.defined_lookup found step defn)
        rw [RouteStep.dockFits_iff, Road.defined_length found] at dock
        exact dock kind long
      · exact chain n _ _ (Road.defined_lookup found at_n defn) (Road.defined_lookup found at_next defn')
      · refine ⟨fun t isFirst => links.1 t.link ?_, fun t isLast => links.2.1 t.link ?_, ?_⟩
        · rw [List.head?_map, isFirst]; rfl
        · rw [List.getLast?_map, isLast]; rfl
        · exact fun ⟨n, four⟩ => links.2.2 ⟨n, fun k small => by
            obtain ⟨t, step, link⟩ := four k small
            rw [List.getElem?_map, step, Option.map_some, link]⟩
      · cases isFirst
        obtain ⟨e, es, rfl⟩ : ∃ e es, ds = e :: es := List.exists_cons_of_length_pos (by rw [Road.defined_length found]; exact some)
        have entry := Road.defined_lookup found (n := 0) rfl defn
        cases entry
        exact (Road.firstBranch_iff (suits List.mem_cons_self defn).2).mp points
  · intro fits
    obtain ⟨ds, found⟩ := Road.defined_of_all (r := r) (steps := (first :: rest).map RouteStep.loaded) fun t listed => by
      obtain ⟨u, original, rfl⟩ := List.mem_map.mp listed
      exact fits.defined u original
    refine (Road.routeValid_of_defined found).mpr ⟨fits.first, fits.once, fun e listed => ?_, fun n e entry => ?_, ?_, ?_, ?_⟩
    · obtain ⟨t, original, loaded, defn⟩ := Road.defined_of_mem found listed
      rw [loaded, RouteStep.fits_iff]
      exact ⟨fits.allowed t original e.2 defn, fits.branches t original e.2 defn⟩
    · obtain ⟨t, step, loaded, defn⟩ := Road.defined_step found entry
      rw [loaded, RouteStep.dockFits_iff, Road.defined_length found]
      exact fits.dock n t e.2 step defn
    · rw [chained_iff]
      intro n a b at_n at_next
      obtain ⟨t, step, loaded, defn⟩ := Road.defined_step found at_n
      obtain ⟨u, next, loaded', defn'⟩ := Road.defined_step found at_next
      rw [loaded, loaded']
      exact fits.joined n t u a.2 b.2 step next defn defn'
    · rw [linksFit_iff nonempty]
      obtain ⟨isFirst, isLast, four⟩ := fits.links
      refine ⟨fun b head => ?_, fun b tail => ?_, fun ⟨n, all⟩ => four ⟨n, fun k small => ?_⟩⟩
      · rw [List.head?_map] at head
        obtain ⟨t, step, rfl⟩ := Option.map_eq_some_iff.mp head
        exact isFirst t step
      · rw [List.getLast?_map] at tail
        obtain ⟨t, step, rfl⟩ := Option.map_eq_some_iff.mp tail
        exact isLast t step
      · have link := all k small
        rw [List.getElem?_map] at link
        exact Option.map_eq_some_iff.mp link
    · obtain ⟨d, defn⟩ := Option.isSome_iff_exists.mp (fits.defined first List.mem_cons_self)
      obtain ⟨e, es, rfl⟩ : ∃ e es, ds = e :: es := List.exists_cons_of_length_pos (by rw [Road.defined_length found]; exact some)
      have entry := Road.defined_lookup found (n := 0) rfl defn
      cases entry
      exact (Road.firstBranch_iff (t := first.loaded) (ds := es) (fits.branches first List.mem_cons_self d defn)).mpr (fits.points first d rfl defn)

end Checks

/-! ## Loading a route (R58) -/

theorem freshRoute_loaded (steps : List RouteStep) :
    freshRoute (steps.map RouteStep.loaded) = steps.mapIdx fun n t => { t with status := if n = 0 then .held else .ahead } := by
  cases steps with
  | nil => rfl
  | cons t ts =>
    rw [List.mapIdx_cons]
    simp only [List.map_cons, freshRoute, List.map_map, if_true, Nat.add_eq_zero_iff, one_ne_zero, and_false, if_false,
      List.mapIdx_eq_zipIdx_map]
    refine congrArg (List.cons _) ?_
    apply List.ext_getElem?
    intro n
    simp
    rfl

theorem Convoy.flipped_eq (v : Convoy) : v.flipped = { v with
    members := v.members.reverse.map fun m => { m with trim := 0, lastGap := none },
    history := List.replicate (v.lag * (v.members.length - 1)) 0 } := by
  simp only [Convoy.flipped, Convoy.refilled, Convoy.memberCount, List.length_map, List.length_reverse]
  rfl

theorem loadRoute_eq {c : ConvoyId} {i : SectionId} {h : Holding} {steps : List RouteStep} {r : Road} {t : RouteStep}
    (first : steps.head? = some t) :
    loadRoute c i h (steps.map RouteStep.loaded) r =
      let routed := (r.convoy c).rerouted (steps.map RouteStep.loaded)
      if t.dir = h.dir then r.setConvoy c routed
      else (r.setConvoy c routed.flipped).setSect i
        { r.sect i with status := .occupied { h with dir := t.dir, log := [] } } := by
  obtain ⟨rest, rfl⟩ : ∃ rest, steps = t :: rest := List.head?_eq_some_iff.mp first
  have sameDir : t.loaded.dir = t.dir := rfl
  simp only [loadRoute, List.map_cons, sameDir, Road.updConvoy]
  split
  next => rfl
  next =>
    have same : ((r.setConvoy c ((r.convoy c).rerouted (t.loaded :: rest.map RouteStep.loaded))).setSect i
        { r.sect i with status := .occupied { h with dir := t.dir, log := [] } }).convoy c
      = (r.convoy c).rerouted (t.loaded :: rest.map RouteStep.loaded) := Road.convoy_setConvoy_self _ _ _
    have section_same : (r.setConvoy c ((r.convoy c).rerouted (t.loaded :: rest.map RouteStep.loaded))).sect i = r.sect i := rfl
    rw [section_same, same]
    simp [Road.setConvoy, Road.setSect]

/-- Settles O36. -/
theorem lrtLoadsARoute : Obligations.LrtLoadsARoute := by
  intro c steps tag s ready some few
  have answer := answerLrt_body (c := c) (p := s.part) some few
  refine ⟨fun i h stands fits t first => ?loaded, fun i h stands misfit => ?misfit, fun nowhere => ?nowhere⟩
  case loaded =>
    have here := (s.part.road.standsIn_eq_some c i h).mpr stands
    rw [here] at answer
    dsimp only at answer
    rw [if_pos ((Road.routeValid_iff some).mpr fits), Part.onRoad_eq, loadRoute_eq first] at answer
    rw [← freshRoute_loaded]
    dsimp only at answer
    rw [Convoy.flipped_eq] at answer
    exact exec_answers ready answer rfl rfl
  case misfit =>
    have here := (s.part.road.standsIn_eq_some c i h).mpr stands
    rw [here] at answer
    dsimp only at answer
    rw [if_neg (mt (Road.routeValid_iff some).mp misfit)] at answer
    exact exec_answers ready answer rfl rfl
  case nowhere =>
    have absent : s.part.road.standsIn c = none := by
      rw [Option.eq_none_iff_forall_ne_some]
      rintro ⟨i, h⟩ here
      exact nowhere i h ((s.part.road.standsIn_eq_some c i h).mp here)
    rw [absent] at answer
    exact exec_answers ready answer rfl rfl

end Sys2Proof.Machine
end

section
/-! RUN (R59), the asking for a group (R23 to R25, R65), and whether a convoy is on the move. -/

namespace Sys2Proof.Machine

/-! ## Whether a convoy is on the move -/

theorem Convoy.runIfClear_active (v : Convoy) : v.runIfClear.state.active = v.state.active := by
  unfold Convoy.runIfClear
  split
  next =>
    cases v.state with
    | vacant => rfl
    | plain b => cases b <;> rfl
    | halted b => cases b <;> rfl
  next => rfl

theorem Convoy.settled_active (v : Convoy) (first last : Nat) : (v.settled first last).state.active = v.state.active :=
  Convoy.runIfClear_active _

theorem ConvoyState.toHalted_active (st : ConvoyState) : st.toHalted.active = st.active := by cases st <;> rfl

theorem Convoy.afterHalt_active (v : Convoy) : v.afterHalt.active = v.state.active := by
  cases st : v.state with
  | vacant => simp [Convoy.afterHalt, st]
  | plain b => simp [Convoy.afterHalt, st]
  | halted b =>
    cases b with
    | standing => simp only [Convoy.afterHalt, st]; rfl
    | arrived => simp only [Convoy.afterHalt, st]; rfl
    | waiting => simp only [Convoy.afterHalt, st]; split <;> rfl
    | running => simp only [Convoy.afterHalt, st]; split <;> rfl

/-- Between the roads no convoy is set moving, and none is stopped: what is RUNNING or WAITING, or halted out of it, is so
still. -/
def Road.Steady (r r' : Road) : Prop := ∀ c, (r'.convoy c).state.active = (r.convoy c).state.active

namespace Road.Steady

theorem refl (r : Road) : Road.Steady r r := fun _ => rfl

theorem trans {r r' r'' : Road} (a : Road.Steady r r') (b : Road.Steady r' r'') : Road.Steady r r'' :=
  fun c => (b c).trans (a c)

theorem of_convoys {r r' : Road} (same : r'.convoys = r.convoys) : Road.Steady r r' := fun c => by
  rw [Road.convoy, same]
  rfl

theorem updConvoy (r : Road) (c : ConvoyId) {f : Convoy → Convoy} (keeps : ∀ v, (f v).state.active = v.state.active) :
    Road.Steady r (r.updConvoy c f) := fun k => by
  by_cases same : k = c
  · subst same
    rw [Road.convoy_updConvoy_self, keeps]
  · rw [Road.convoy_updConvoy_other _ _ _ same]

theorem foldl {α : Type} {f : Road → α → Road} (xs : List α) (r : Road) (step : ∀ r, ∀ x ∈ xs, Road.Steady r (f r x)) :
    Road.Steady r (xs.foldl f r) :=
  foldl_keeps (P := Road.Steady r) xs r (fun b x listed before => before.trans (step b x listed)) (refl r)

end Road.Steady

theorem steady_grant (c : ConvoyId) (q : GroupRequest) (r : Road) : Road.Steady r (grant c q r) := fun k => by
  by_cases same : k = c
  · subst same
    rcases settling_cases k q r with moving | settled
    · rw [grant_convoy_moving moving]
      rfl
    · rw [grant_convoy_settled settled, Convoy.settled_active]
      rfl
  · rw [grant_convoy_other same]

theorem steady_promote (r : Road) : Road.Steady r (promote r) :=
  .of_convoys (by rw [promote_eq, promoteAll_rest]; rfl)

theorem steady_passLoop (n : Nat) (r : Road) : Road.Steady r (passLoop n r) := by
  induction n generalizing r with
  | zero => exact .refl r
  | succ n ih =>
    cases chosen : r.choice with
    | none => rw [passLoop_of_none chosen]; exact .refl r
    | some e =>
      rw [passLoop_of_some (c := e.1) (q := e.2) chosen]
      have passed : Road.Steady (grant e.1 e.2 r) (passOver e.2 (grant e.1 e.2 r)) := .of_convoys rfl
      exact (((steady_grant e.1 e.2 r).trans passed).trans (steady_promote _)).trans (ih _)

theorem steady_arbitrate (r : Road) : Road.Steady r (arbitrate r) :=
  (Road.Steady.of_convoys (r' := placeEarmarks r) rfl).trans (steady_passLoop 8 _)

theorem steady_arrive (c : ConvoyId) (first : Nat) (legs : List Leg) (r : Road) : Road.Steady r (arrive c first legs r) := by
  rw [arrive]
  refine Road.Steady.trans ?_ (steady_arbitrate _)
  refine Road.Steady.trans ?_ (Road.Steady.foldl legs _ fun r l _ => .of_convoys rfl)
  split <;> exact .of_convoys rfl

theorem steady_withdraw (c : ConvoyId) (r : Road) : Road.Steady r (withdraw c r) := by
  unfold withdraw
  split
  next => exact .refl r
  next q _ =>
    dsimp only
    split
    · refine Road.Steady.trans ?_ (steady_arbitrate _)
      exact .of_convoys rfl
    · exact .of_convoys rfl

theorem steady_withdrawAsked (c : ConvoyId) (r : Road) : Road.Steady r (withdrawAsked c r) := by
  unfold withdrawAsked
  dsimp only
  split
  · refine Road.Steady.trans ?_ (steady_withdraw c _)
    exact .updConvoy r c fun v => rfl
  · exact steady_withdraw c r

theorem steady_ask (c : ConvoyId) (first : Nat) (r : Road) : Road.Steady r (ask c first r) := by
  refine (steady_withdrawAsked c r).trans ?_
  unfold ask
  dsimp only
  split
  · exact .refl _
  · refine Road.Steady.trans ?_ (steady_arrive _ _ _ _)
    exact .updConvoy _ c fun v => rfl

theorem steady_joinCauses (c : ConvoyId) (srcs : SourceSet) (r : Road) : Road.Steady r (joinCauses c srcs r) := by
  unfold joinCauses
  dsimp only
  split
  · exact (Road.Steady.updConvoy r c fun v => ConvoyState.toHalted_active v.state).trans (.of_convoys rfl)
  · exact .refl r

theorem steady_haltEnd (c : ConvoyId) (r : Road) : Road.Steady r (haltEnd c r) := by
  have restarted : Road.Steady r (r.updConvoy c Convoy.restarted) := .updConvoy r c Convoy.afterHalt_active
  unfold haltEnd
  dsimp only
  split
  · exact restarted.trans (steady_ask _ _ _)
  · exact restarted

theorem steady_leaveCauses (active : SourceSet) (c : ConvoyId) (r : Road) : Road.Steady r (leaveCauses active c r) := by
  unfold leaveCauses
  dsimp only
  split
  · split
    · exact steady_haltEnd c r
    · exact .updConvoy r c fun v => rfl
  · exact .refl r

theorem steady_reviewHalts (cells : Table Cell 8) (drivers : DriverPort) (r : Road) :
    Road.Steady r (reviewHalts cells drivers r) :=
  .foldl _ r fun r c _ =>
    ((steady_joinCauses c _ r).trans (steady_leaveCauses _ c _)).trans (steady_joinCauses c _ _)

/-! ## The group an ask names (R23, R65) -/

theorem groupRun_cons (t : RouteStep) (ts : List RouteStep) :
    groupRun (t :: ts) = if t.link = true ∧ ∀ u, ts.head? = some u → u.isHeld = false then t :: groupRun ts else [t] := by
  cases ts with
  | nil => simp [groupRun]
  | cons u us => simp [groupRun]

/-- The run of linked steps: a beginning of the list, linked through to its end, and ended by an unlinked step or before a held
one. -/
theorem groupRun_spec (ts : List RouteStep) (some : ts ≠ []) :
    ∃ last, last < ts.length ∧ groupRun ts = ts.take (last + 1)
      ∧ (∀ n t u, n < last → ts[n]? = Option.some t → ts[n + 1]? = Option.some u → t.link = true ∧ u.isHeld = false)
      ∧ ∀ t u, ts[last]? = Option.some t → ts[last + 1]? = Option.some u → t.link = false ∨ u.isHeld = true := by
  induction ts with
  | nil => exact absurd rfl some
  | cons t ts ih =>
    rw [groupRun_cons]
    by_cases goes : (t.link = true ∧ ∀ u, ts.head? = Option.some u → u.isHeld = false) ∧ ts ≠ []
    · obtain ⟨⟨link, unheld⟩, more⟩ := goes
      obtain ⟨last, inside, run, linked, ends⟩ := ih more
      refine ⟨last + 1, by simpa using inside, by rw [if_pos ⟨link, unheld⟩, run]; rfl, fun n x y below at_n at_next => ?_,
        fun x y at_n at_next => ends x y at_n at_next⟩
      cases n with
      | zero =>
        cases at_n
        exact ⟨link, unheld y (by rw [List.head?_eq_getElem?]; exact at_next)⟩
      | succ n => exact linked n x y (by omega) at_n at_next
    · refine ⟨0, by simp, ?_, fun n x y below => absurd below (Nat.not_lt_zero n), fun x y at_n at_next => ?_⟩
      · by_cases empty : ts = []
        · subst empty
          split <;> rfl
        · rw [if_neg fun h => goes ⟨h, empty⟩]
          rfl
      · cases at_n
        have head : ts.head? = Option.some y := by rw [List.head?_eq_getElem?]; exact at_next
        have more : ts ≠ [] := by rintro rfl; cases head
        by_contra both
        rw [not_or, Bool.not_eq_false, Bool.not_eq_true] at both
        refine goes ⟨⟨both.1, fun u same => ?_⟩, more⟩
        rw [head] at same
        cases same
        exact both.2

theorem Convoy.markAsked_eq (first last : Nat) (v : Convoy) :
    v.markAsked first last = { ({ v with route := v.route.mapIdx fun n t =>
      if first ≤ n ∧ n ≤ last then { t with status := .requested } else t } : Convoy).reindex with asked := some (first, last) } := by
  rw [Convoy.markAsked, Convoy.mapSteps_eq_mapIdx]
  simp only [Bool.and_eq_true, decide_eq_true_eq]

theorem ask_of_none {c : ConvoyId} {first : Nat} {r : Road} (none : ((withdrawAsked c r).convoy c).route.length ≤ first) :
    ask c first r = withdrawAsked c r := by
  have empty : ((withdrawAsked c r).convoy c).route.drop first = [] := List.drop_eq_nil_of_le none
  simp only [ask, empty, groupRun]

theorem ask_of_run {c : ConvoyId} {first : Nat} {r : Road} {run : List RouteStep} (some : run ≠ [])
    (named : groupRun (((withdrawAsked c r).convoy c).route.drop first) = run) :
    ask c first r = arrive c first (run.map RouteStep.leg)
      ((withdrawAsked c r).updConvoy c (Convoy.markAsked first (first + run.length - 1))) := by
  cases run with
  | nil => exact absurd rfl some
  | cons t ts => simp only [ask, named]

/-! ## The arrival of a request (R23 to R25) -/

/-- The road with the request joined to the queues. -/
def joinedRoad (c : ConvoyId) (first : Nat) (legs : List Leg) (r : Road) : Road :=
  { r with
    requests := Table.put r.requests c (some { first, legs, arrival := r.arrivals, passed := 0, promoted := false }),
    arrivals := r.arrivals + 1,
    sections := Table.mapAll (fun i v => if i ∈ legs.map Leg.sec then { v with queue := v.queue ++ [c] } else v) r.sections }

theorem joinQueues_eq {c : ConvoyId} {legs : List Leg} (once : (legs.map Leg.sec).Nodup) (r : Road) :
    legs.foldl (fun r l => r.setSect l.sec { r.sect l.sec with queue := (r.sect l.sec).queue ++ [c] }) r
      = { r with
          sections := Table.mapAll (fun i v => if i ∈ legs.map Leg.sec then { v with queue := v.queue ++ [c] } else v) r.sections } := by
  induction legs generalizing r with
  | nil =>
    have same : Table.mapAll (fun _ v => v) r.sections = r.sections := Table.ext fun i => Table.at_mapAll _ _ i
    simp only [List.foldl_nil, List.map_nil, List.not_mem_nil, if_false, same]
  | cons l legs ih =>
    rw [List.map_cons, List.nodup_cons] at once
    rw [List.foldl_cons, ih once.2]
    simp only [Road.setSect]
    congr 1
    apply Table.ext
    intro i
    rw [Table.at_mapAll, Table.at_mapAll, Table.at_put]
    by_cases own : i = l.sec
    · subst own
      simp [once.1, Road.sect]
    · simp [own]

theorem arrive_eq {c : ConvoyId} {first : Nat} {legs : List Leg} (once : (legs.map Leg.sec).Nodup) (r : Road) :
    arrive c first legs r = arbitrate (joinedRoad c first legs (if r.arrivals = 65535 then renumber r else r)) := by
  rw [arrive, joinQueues_eq once]
  rfl

/-- Counting the asking convoys through the list of their requests. -/
theorem length_waiting_filter (r : Road) (p : GroupRequest → Bool) :
    (r.waiting.filter fun e => p e.2).length = ((List.finRange 8).filter fun k => (r.request k).any p).length := by
  unfold Road.waiting Table.entries Road.request
  rw [List.filterMap_map]
  induction List.finRange 8 with
  | nil => rfl
  | cons k ks ih =>
    rw [List.filterMap_cons, List.filter_cons]
    cases asked : Table.at r.requests k with
    | none => simpa [asked] using ih
    | some q => by_cases meets : p q = true <;> simpa [asked, meets] using ih

theorem length_waiting (r : Road) : r.waiting.length = ((List.finRange 8).filter fun k => (r.request k).isSome).length := by
  have all := length_waiting_filter r fun _ => true
  rw [List.filter_true] at all
  rw [all]
  refine congrArg List.length (List.filter_congr fun k _ => ?_)
  cases r.request k <;> rfl

/-! ## RUN (R59) -/

section Run

variable {c : ConvoyId} {p : Part}

theorem answerRun_accepted (mayStart : (p.road.convoy c).startable = true) (free : p.parkHold = false) :
    answerRun [b8 c.val] p = accept (p.onRoad (startConvoy c)).reviewHalts := by
  simp [answerRun, run, index?_b8 c (by decide : 8 ≤ 256), mayStart, free]

theorem answerRun_latched (mayStart : (p.road.convoy c).startable = true) (held : p.parkHold = true) :
    answerRun [b8 c.val] p = refuse .latched p := by
  simp [answerRun, run, index?_b8 c (by decide : 8 ≤ 256), mayStart, held]

theorem answerRun_refused (stays : (p.road.convoy c).startable = false) : answerRun [b8 c.val] p = refuse .badState p := by
  simp [answerRun, run, index?_b8 c (by decide : 8 ≤ 256), stays]

end Run

theorem startConvoy_of_standing {c : ConvoyId} {r : Road} (standing : (r.convoy c).state = .plain .standing) :
    startConvoy c r
      = ask c ((r.convoy c).lead + 1) (r.setConvoy c { r.convoy c with state := .plain .waiting }) := by
  simp only [startConvoy, Road.updConvoy, setBase, standing, ConvoyState.mapBase, Road.convoy_setConvoy_self]

/-- Settles O37. -/
theorem runStartsAConvoy : Obligations.RunStartsAConvoy := by
  refine ⟨fun c tag s ready => ⟨fun mayStart free => ?started, fun mayStart held => ?latched, fun stays => ?refused⟩,
    fun c first r => ⟨fun none => ask_of_none none, fun some => ?run⟩, fun c first legs r once => ⟨fun room => ?room, fun full => ?full⟩⟩
  case started =>
    have startable := (s.part.road.convoy c).startable_iff.mpr mayStart
    have answer := (answerRun_accepted startable free).trans (congrArg accept (reviewHalts_onRoad _ _))
    have kept := (kept_startConvoy c s.part.road).trans (kept_reviewHalts s.part.cells s.part.drivers _)
    obtain ⟨standing, -⟩ := mayStart
    have steady := ((steady_ask c ((s.part.road.convoy c).lead + 1)
      (s.part.road.setConvoy c { s.part.road.convoy c with state := .plain .waiting })).trans
        (steady_reviewHalts s.part.cells s.part.drivers _)) c
    rw [startConvoy_of_standing standing] at answer kept
    refine ⟨_, exec_answers ready answer rfl rfl, kept, ?_, rfl⟩
    rw [Road.convoy_setConvoy_self] at steady
    exact (ConvoyState.active_iff _).mp steady
  case latched => exact exec_answers ready (answerRun_latched ((s.part.road.convoy c).startable_iff.mpr mayStart) held) rfl rfl
  case refused =>
    rw [← Convoy.startable_iff, Bool.not_eq_true] at stays
    exact exec_answers ready (answerRun_refused stays) rfl rfl
  case run =>
    have more : ((withdrawAsked c r).convoy c).route.drop first ≠ [] := by
      rw [Ne, List.drop_eq_nil_iff]
      omega
    obtain ⟨last, inside, run, linked, ends⟩ := groupRun_spec _ more
    rw [List.length_drop] at inside
    simp only [List.getElem?_drop] at linked ends
    have length : (((((withdrawAsked c r).convoy c).route.drop first).take (last + 1))).length = last + 1 := by
      rw [List.length_take, List.length_drop]
      omega
    refine ⟨first + last, by omega, by omega, fun n t u low below at_n at_next => ?_, fun t u at_last at_next => ?_, ?_⟩
    · have step := linked (n - first) t u (by omega) (by rwa [Nat.add_sub_cancel' low])
        (by rwa [← Nat.add_assoc, Nat.add_sub_cancel' low])
      have unheld : ¬ u.isHeld = true := by simp [step.2]
      rw [RouteStep.isHeld_iff, not_or] at unheld
      exact ⟨step.1, unheld⟩
    · have ending := ends t u at_last at_next
      rwa [RouteStep.isHeld_iff] at ending
    · rw [ask_of_run (List.ne_nil_of_length_pos (by rw [length]; omega)) run, length, Road.updConvoy, Convoy.markAsked_eq]
      have back : first + (last + 1) - 1 = first + last := by omega
      have size : first + last + 1 - first = last + 1 := by omega
      rw [back, size]
      rfl
  case room =>
    rw [arrive_eq once, if_neg room]
    rfl
  case full =>
    refine ⟨renumber r, ?_, rfl, length_waiting r, fun k none => ?_, fun k q asked => ?_⟩
    · rw [arrive_eq once, if_pos full]
      rfl
    · rw [Road.request, renumber, Table.at_mapAll]
      exact congrArg (Option.map _) none
    · rw [Road.request, renumber, Table.at_mapAll]
      change Option.map _ (r.request k) = _
      rw [asked, Option.map_some, ← length_waiting_filter]

end Sys2Proof.Machine
end

section
/-! RUN of a convoy alone on the road, over one plain step (R23 to R25, R35, R37, R59, R62, R63). -/

namespace Sys2Proof.Machine

/-! ## The convoy through its ask, its grant and its settled report -/

/-- Step `k` has status `st`, and the convoy its state and its pending request. -/
def Convoy.atStep (k : Nat) (st : StepStatus) (b : BaseState) (asked : Option (Nat × Nat)) (v : Convoy) : Convoy :=
  ({ v with
      state := .plain b, asked := asked,
      route := v.route.mapIdx fun n u => if n = k then { u with status := st } else u } : Convoy).reindex

section Steps

variable {v : Convoy} {k : Nat}

theorem Convoy.reindex_asked (v : Convoy) (asked : Option (Nat × Nat)) :
    { v.reindex with asked := asked } = ({ v with asked := asked } : Convoy).reindex := rfl

theorem Convoy.markAsked_single (st : v.state = .plain .waiting) :
    v.markAsked k k = v.atStep k .requested .waiting (some (k, k)) := by
  have same (n : Nat) : (k ≤ n ∧ n ≤ k) ↔ n = k := by omega
  simp only [Convoy.markAsked_eq, same, Convoy.reindex_asked, Convoy.atStep, st]

theorem Convoy.atStep_route (st : StepStatus) (b : BaseState) (asked : Option (Nat × Nat)) (v : Convoy) (n : Nat) :
    (v.atStep k st b asked).route[n]? = (v.route[n]?).map fun u => if n = k then { u with status := st } else u :=
  List.getElem?_mapIdx

/-- A report that changes the status of the one step it names. -/
theorem Convoy.restatus_atStep (a b : StepStatus) (x : BaseState) (asked : Option (Nat × Nat)) :
    (v.atStep k a x asked).restatus k k a b = v.atStep k b x asked := by
  have route : (v.atStep k a x asked).route.mapIdx (fun n u =>
      if k ≤ n ∧ n ≤ k ∧ u.status = a then { u with status := b } else u)
      = v.route.mapIdx fun n u => if n = k then { u with status := b } else u := by
    apply List.ext_getElem?
    intro n
    rw [List.getElem?_mapIdx, List.getElem?_mapIdx, Convoy.atStep_route, Option.map_map]
    congr 1
    funext u
    by_cases same : n = k
    · simp [same]
    · have apart : ¬ (k ≤ n ∧ n ≤ k) := by omega
      simp [same, ← and_assoc, apart]
  rw [Convoy.restatus_eq, route]
  rfl

theorem Convoy.granted_atStep :
    (v.atStep k .requested .waiting (some (k, k))).granted k k = v.atStep k .settling .waiting none := by
  rw [Convoy.granted, Convoy.restatus_atStep]
  rfl

theorem Convoy.settled_atStep {t : RouteStep} (next : k = v.lead + 1) (step : v.route[k]? = some t) :
    (v.atStep k .settling .waiting none).settled k k = v.atStep k .held .running none := by
  have held : (v.atStep k .held .waiting none).mayRun = true := by
    rw [Convoy.mayRun_iff, Convoy.nextStatus_eq]
    have lead : (v.atStep k .held .waiting none).lead + 1 = k := next.symm
    rw [lead, Convoy.atStep_route, step]
    simp
  rw [Convoy.settled, Convoy.restatus_atStep, Convoy.runIfClear, if_pos held]
  rfl

end Steps

/-! ## The road with one request on it -/

theorem joinedRoad_request (c : ConvoyId) (first : Nat) (legs : List Leg) (r : Road) :
    (joinedRoad c first legs r).request c = some { first, legs, arrival := r.arrivals, passed := 0, promoted := false } :=
  Table.at_put_self _ _ _

theorem joinedRoad_request_other {c k : ConvoyId} (other : k ≠ c) (first : Nat) (legs : List Leg) (r : Road) :
    (joinedRoad c first legs r).request k = r.request k := Table.at_put_other _ other _

/-- With one request waiting the pass grants it or does nothing. -/
theorem arbitrate_single {c : ConvoyId} {q : GroupRequest} {r : Road} (promotions : r.promotions = [])
    (asked : r.request c = some q) (alone : ∀ k, k ≠ c → r.request k = none) :
    (r.grantable c q = false → arbitrate r = r)
      ∧ (r.grantable c q = true → arbitrate r = grant c q r) := by
  have marked : placeEarmarks r = r := placeEarmarks_of_none promotions
  have only {k : ConvoyId} {p : GroupRequest} (asks : r.request k = some p) : k = c ∧ p = q := by
    by_cases same : k = c
    · subst same
      rw [asked] at asks
      exact ⟨rfl, (Option.some.inj asks).symm⟩
    · rw [alone k same] at asks
      cases asks
  constructor
  · intro blocked
    have none : r.choice = none := by
      obtain ⟨-, none⟩ | ⟨x, listed, -⟩ := r.choice_cases
      · exact none
      · obtain ⟨asks, grantable⟩ := (r.mem_candidates x.1 x.2).mp listed
        obtain ⟨rfl, rfl⟩ := only asks
        rw [blocked] at grantable
        cases grantable
    rw [arbitrate, marked, passLoop_of_none none]
  · intro grantable
    have chosen : r.choice = some (c, q) := by
      obtain ⟨empty, -⟩ | ⟨x, listed, found, -⟩ := r.choice_cases
      · have listed := (r.mem_candidates c q).mpr ⟨asked, grantable⟩
        rw [empty] at listed
        cases listed
      · obtain ⟨asks, -⟩ := (r.mem_candidates x.1 x.2).mp listed
        obtain ⟨rfl, rfl⟩ := only asks
        exact found
    have idle : NoRequests (grant c q r) := by
      refine ⟨fun k => ?_, ?_⟩
      · rw [Road.request, grant_requests, Table.at_put]
        split
        · rfl
        · exact alone k ‹_›
      · rw [grant_rest, beforeReports_rest]
        simp [promotions]
    have passed : passOver q (grant c q r) = grant c q r := by
      have same : Table.mapAll (fun _ o => o.map (GroupRequest.passedOver q)) (grant c q r).requests
          = (grant c q r).requests := by
        apply Table.ext
        intro k
        have none : Table.at (grant c q r).requests k = none := idle.1 k
        rw [Table.at_mapAll, none]
        rfl
      rw [passOver, same]
    rw [arbitrate, marked, passLoop_of_some chosen, passed, idle.promote, passLoop_of_none idle.choice]

/-- The grant of one section without a junction and without a running timer. -/
theorem grant_single {c : ConvoyId} {q : GroupRequest} {l : Leg} {r : Road} (legs : q.legs = [l])
    (plain : r.legJunction l = none) (timer : (r.sect l.sec).settle = none) (promotions : r.promotions = []) :
    grant c q r = { r with
      requests := Table.put r.requests c none,
      sections := Table.put r.sections l.sec ((r.sect l.sec).grantedTo c l.dir),
      convoys := Table.put r.convoys c (((r.convoy c).granted q.first q.first).settled q.first q.first) } := by
  have last : q.last = q.first := by simp [GroupRequest.last, legs]
  have mid : beforeReports c q r = { r with
      requests := Table.put r.requests c none, sections := Table.put r.sections l.sec ((r.sect l.sec).grantedTo c l.dir) } := by
    have noJunction : (askingEnded c q r).legJunction l = none := by
      rw [askingEnded_legJunction (by simp [legs]) (by simp [legs]), plain]
    rw [beforeReports, setJunctions, legs, List.foldl_cons, List.foldl_nil, setJunction_of_none noJunction, askingEnded, legs,
      grantLegs, List.foldl_cons, List.foldl_nil]
    have kept : r.promotions.filter (fun x => decide (x ≠ c)) = r.promotions := by rw [promotions]; rfl
    simp only [grantLeg, Road.setSect, Road.setRequest, kept]
    rfl
  have still : ¬ (q.legs.any fun l => (beforeReports c q r).timerRuns l.sec) = true := by
    rw [legs, mid]
    simp [Road.timerRuns, Road.sect, Section.grantedTo]
    exact timer
  rw [grant_eq, if_neg still, last, settledReport, grantReport, mid]
  simp [Road.setConvoy, Road.convoy]

/-! ## The start of a convoy alone on the road -/

theorem AllClear.change {p : Part} (clear : AllClear p) {r : Road}
    (faults : ∀ i, (r.sect i).status.isFault = (p.road.sect i).status.isFault)
    (source : ∀ k, (r.convoy k).source = (p.road.convoy k).source)
    (halts : ∀ k, (r.convoy k).state.isHalted = (p.road.convoy k).state.isHalted) : AllClear { p with road := r } := by
  obtain ⟨cells, noFault, present, running⟩ := clear
  refine ⟨cells, fun i => (faults i).trans (noFault i), fun k => ?_, fun k => (halts k).trans (running k)⟩
  have lost := present k
  rw [driverLostActive] at lost ⊢
  dsimp only
  rw [source k]
  exact lost

/-- The request of a start over one step. -/
def RouteStep.request (t : RouteStep) (k arrival : Nat) : GroupRequest :=
  { first := k, legs := [t.leg], arrival, passed := 0, promoted := false }

section Alone

variable {c : ConvoyId} {t : RouteStep} {r : Road}

/-- The road on which a lone convoy asks for step `k`. -/
def waitingRoad (c : ConvoyId) (t : RouteStep) (k : Nat) (r : Road) : Road :=
  ((({ r with arrivals := r.arrivals + 1 }.setConvoy c ((r.convoy c).atStep k .requested .waiting (some (k, k)))).setSect t.sec
    { r.sect t.sec with queue := (r.sect t.sec).queue ++ [c] }).setRequest c (some (t.request k r.arrivals)))

theorem startConvoy_single (standing : (r.convoy c).state = .plain .standing) (unasked : (r.convoy c).asked = none)
    (norequest : r.request c = none) (room : r.arrivals < 65535) (step : (r.convoy c).route[(r.convoy c).lead + 1]? = some t)
    (unlinked : t.link = false) :
    startConvoy c r = arbitrate (waitingRoad c t ((r.convoy c).lead + 1) r) := by
  have still : withdrawAsked c (r.setConvoy c { r.convoy c with state := .plain .waiting })
      = r.setConvoy c { r.convoy c with state := .plain .waiting } :=
    withdrawAsked_none _ _ (by rw [Road.convoy_setConvoy_self]; exact unasked) norequest
  have run : groupRun (((withdrawAsked c (r.setConvoy c { r.convoy c with state := .plain .waiting })).convoy c).route.drop
      ((r.convoy c).lead + 1)) = [t] := by
    obtain ⟨inside, rfl⟩ := List.getElem?_eq_some_iff.mp step
    rw [still, Road.convoy_setConvoy_self, List.drop_eq_getElem_cons inside, groupRun_cons, if_neg (by simp [unlinked])]
  have joined : joinedRoad c ((r.convoy c).lead + 1) [t.leg]
      (r.setConvoy c ((r.convoy c).atStep ((r.convoy c).lead + 1) .requested .waiting
        (some ((r.convoy c).lead + 1, (r.convoy c).lead + 1)))) = waitingRoad c t ((r.convoy c).lead + 1) r := by
    have sections : Table.mapAll (fun i v => if i ∈ [t.leg].map Leg.sec then { v with queue := v.queue ++ [c] } else v) r.sections
        = Table.put r.sections t.sec { r.sect t.sec with queue := (r.sect t.sec).queue ++ [c] } := by
      apply Table.ext
      intro i
      rw [Table.at_mapAll, Table.at_put]
      by_cases own : i = t.sec
      · subst own
        simp [RouteStep.leg, Road.sect]
      · simp [own, RouteStep.leg]
    simp only [joinedRoad, waitingRoad, Road.setConvoy, sections]
    rfl
  rw [startConvoy_of_standing standing, ask_of_run (by simp) run, still, Road.updConvoy, Road.convoy_setConvoy_self,
    List.length_singleton, Nat.add_sub_cancel, Convoy.markAsked_single rfl, Road.setConvoy_setConvoy,
    arrive_eq (by simp), if_neg (by simpa using room.ne)]
  exact congrArg arbitrate joined

variable {k : Nat}

theorem waitingRoad_sect (i : SectionId) :
    (waitingRoad c t k r).sect i
      = if i = t.sec then { r.sect i with queue := (r.sect i).queue ++ [c] } else r.sect i := by
  by_cases own : i = t.sec
  · subst own
    rw [if_pos rfl]
    exact Road.sect_setSect_self _ _ _
  · rw [if_neg own]
    exact Road.sect_setSect_other _ _ _ own

theorem waitingRoad_convoy : (waitingRoad c t k r).convoy c = (r.convoy c).atStep k .requested .waiting (some (k, k)) :=
  Table.at_put_self _ _ _

theorem waitingRoad_convoy_other {x : ConvoyId} (other : x ≠ c) : (waitingRoad c t k r).convoy x = r.convoy x :=
  Table.at_put_other _ other _

theorem waitingRoad_alone (requests : NoRequests r) (x : ConvoyId) (other : x ≠ c) : (waitingRoad c t k r).request x = none :=
  (Table.at_put_other _ other _).trans (requests.1 x)

theorem waitingRoad_request : (waitingRoad c t k r).request c = some (t.request k r.arrivals) := Table.at_put_self _ _ _

/-- The road on which a lone convoy has been granted step `k` and runs. -/
def runningRoad (c : ConvoyId) (t : RouteStep) (k : Nat) (r : Road) : Road :=
  ({ r with arrivals := r.arrivals + 1 }.setConvoy c ((r.convoy c).atStep k .held .running none)).setSect t.sec
    { r.sect t.sec with
      status := .granted { convoy := c, dir := t.dir, entered := 0, exited := 0, log := [] },
      queue := (r.sect t.sec).queue.filter fun x => x ≠ c }

theorem runningRoad_convoy : (runningRoad c t k r).convoy c = (r.convoy c).atStep k .held .running none :=
  Table.at_put_self _ _ _

theorem runningRoad_convoy_other {x : ConvoyId} (other : x ≠ c) : (runningRoad c t k r).convoy x = r.convoy x :=
  Table.at_put_other _ other _

theorem grant_waitingRoad (requests : NoRequests r) (next : k = (r.convoy c).lead + 1)
    (step : (r.convoy c).route[k]? = some t) (earmark : (r.sect t.sec).earmark = none) (timer : (r.sect t.sec).settle = none)
    (plain : ∀ d, (r.sect t.sec).defn = some d → d.junction = none) :
    grant c (t.request k r.arrivals) (waitingRoad c t k r) = runningRoad c t k r := by
  have sect : (waitingRoad c t k r).sect t.sec = { r.sect t.sec with queue := (r.sect t.sec).queue ++ [c] } := by
    rw [waitingRoad_sect, if_pos rfl]
  have noJunction : (waitingRoad c t k r).legJunction t.leg = none := by
    rw [Road.legJunction]
    change ((waitingRoad c t k r).sect t.sec).defn.bind _ = none
    rw [sect, Option.bind_eq_none_iff]
    exact plain
  have noTimer : ((waitingRoad c t k r).sect t.leg.sec).settle = none := by
    change ((waitingRoad c t k r).sect t.sec).settle = none
    rw [sect]
    exact timer
  have norequest : Table.put r.requests c none = r.requests := by
    have none : Table.at r.requests c = Option.none := requests.1 c
    rw [← none, Table.put_at]
  have section_granted : ((waitingRoad c t k r).sect t.sec).grantedTo c t.dir = { r.sect t.sec with
      status := .granted { convoy := c, dir := t.dir, entered := 0, exited := 0, log := [] },
      queue := (r.sect t.sec).queue.filter fun x => x ≠ c } := by
    rw [sect, Section.grantedTo]
    simp [earmark]
  rw [grant_single (l := t.leg) rfl noJunction noTimer requests.2, waitingRoad_convoy]
  change ({ waitingRoad c t k r with
    requests := Table.put (waitingRoad c t k r).requests c none,
    sections := Table.put (waitingRoad c t k r).sections t.sec (((waitingRoad c t k r).sect t.sec).grantedTo c t.dir),
    convoys := Table.put (waitingRoad c t k r).convoys c
      ((((r.convoy c).atStep k .requested .waiting (some (k, k))).granted k k).settled k k) } : Road) = _
  rw [Convoy.granted_atStep, Convoy.settled_atStep next step, section_granted]
  simp [waitingRoad, runningRoad, Road.setConvoy, Road.setSect, Road.setRequest, norequest]

end Alone

/-- Settles O38. -/
theorem runIsGrantedOrWaits : Obligations.RunIsGrantedOrWaits := by
  intro c tag s t ready free clear requests room v w standing unasked step unlinked beyond marked
  have startable : (s.part.road.convoy c).startable = true :=
    (s.part.road.convoy c).startable_iff.mpr ⟨standing, (List.getElem?_eq_some_iff.mp step).1, beyond⟩
  have answer := (answerRun_accepted startable free).trans (congrArg accept (reviewHalts_onRoad _ _))
  have single := arbitrate_single (q := t.request (v.lead + 1) s.part.road.arrivals) (r := waitingRoad c t (v.lead + 1) s.part.road)
    requests.2 waitingRoad_request (waitingRoad_alone requests)
  rw [startConvoy_single standing unasked (requests.1 c) room step unlinked] at answer
  have grantable : (waitingRoad c t (v.lead + 1) s.part.road).grantable c (t.request (v.lead + 1) s.part.road.arrivals) = true
      ↔ w.status = .free ∧ ∀ x, w.earmark = some x →
        x = c ∨ (waitingRoad c t (v.lead + 1) s.part.road).exempt c x = true := by
    rw [Road.grantable_iff]
    simp only [RouteStep.request, List.mem_singleton, forall_eq, RouteStep.leg, waitingRoad_sect, if_true]
    rfl
  refine ⟨fun isFree earmark timer plain => ?granted, fun busy => ?waits⟩
  case granted =>
    have granted := single.2 (grantable.mpr ⟨isFree, fun x placed => by rw [earmark] at placed; cases placed⟩)
    rw [granted, grant_waitingRoad requests rfl step earmark timer plain] at answer
    have quiet : reviewHalts s.part.cells s.part.drivers (runningRoad c t (v.lead + 1) s.part.road)
        = runningRoad c t (v.lead + 1) s.part.road := by
      refine (clear.change (r := runningRoad c t (v.lead + 1) s.part.road) (fun i => ?_) (fun k => ?_) fun k => ?_).road
      · by_cases own : i = t.sec
        · subst own
          rw [runningRoad, Road.sect_setSect_self]
          exact (congrArg SectionStatus.isFault isFree).symm
        · rw [runningRoad, Road.sect_setSect_other _ _ _ own]
          rfl
      · by_cases own : k = c
        · subst own
          rw [runningRoad_convoy]
          rfl
        · rw [runningRoad_convoy_other own]
      · by_cases own : k = c
        · subst own
          rw [runningRoad_convoy]
          exact (congrArg ConvoyState.isHalted standing).symm
        · rw [runningRoad_convoy_other own]
    rw [quiet] at answer
    exact exec_answers ready answer rfl rfl
  case waits =>
    have blocked := single.1 (Bool.not_eq_true _ |>.mp fun yes => busy (grantable.mp yes).1)
    rw [blocked] at answer
    have quiet : reviewHalts s.part.cells s.part.drivers (waitingRoad c t (v.lead + 1) s.part.road)
        = waitingRoad c t (v.lead + 1) s.part.road := by
      refine (clear.change (r := waitingRoad c t (v.lead + 1) s.part.road) (fun i => ?_) (fun k => ?_) fun k => ?_).road
      · rw [waitingRoad_sect]
        split <;> rfl
      · by_cases own : k = c
        · subst own
          rw [waitingRoad_convoy]
          rfl
        · rw [waitingRoad_convoy_other own]
      · by_cases own : k = c
        · subst own
          rw [waitingRoad_convoy]
          exact (congrArg ConvoyState.isHalted standing).symm
        · rw [waitingRoad_convoy_other own]
    rw [quiet] at answer
    exact exec_answers ready answer rfl rfl

end Sys2Proof.Machine
end

section
/-! STP (R60), the withdrawal of a request (R42) and the hand-back of held steps (R43). -/

namespace Sys2Proof.Machine

/-! ## Withdrawal (R42) -/

section Withdraw

variable {c : ConvoyId} {r : Road}

theorem withdraw_of_none (none : r.request c = none) : withdraw c r = r := by
  simp only [withdraw, none]

theorem withdraw_of_some {q : GroupRequest} (asked : r.request c = some q) :
    withdraw c r =
      let without := { r with
        requests := Table.put r.requests c none, promotions := r.promotions.filter fun x => x ≠ c,
        sections := Table.mapAll (fun _ w => { w with
          queue := w.queue.filter fun x => x ≠ c, earmark := if w.earmark = some c then none else w.earmark }) r.sections }
      if q.promoted then arbitrate without else without := by
  simp only [withdraw, asked]
  rfl

theorem withdrawAsked_of_none (none : (r.convoy c).asked = none) : withdrawAsked c r = withdraw c r := by
  simp only [withdrawAsked, none]

theorem withdrawAsked_of_some {a b : Nat} (asked : (r.convoy c).asked = some (a, b)) :
    withdrawAsked c r
      = withdraw c (r.setConvoy c { (r.convoy c).restatus a b .requested .ahead with asked := none }) := by
  simp only [withdrawAsked, asked]
  rfl

end Withdraw

/-! ## Hand-back (R43) -/

/-- The sections a hand-back frees: those of the held steps beyond the lead that are GRANTED to the convoy. -/
def Road.handedBackSections (r : Road) (c : ConvoyId) : List SectionId :=
  ((((r.convoy c).route.drop ((r.convoy c).lead + 1)).filter RouteStep.isHeld).map RouteStep.sec).filter fun i =>
    match (r.sect i).status with
    | .granted h => h.convoy = c
    | _ => false

theorem Road.mem_handedBackSections (r : Road) (c : ConvoyId) (i : SectionId) :
    i ∈ r.handedBackSections c
      ↔ (∃ n t, (r.convoy c).lead < n ∧ (r.convoy c).route[n]? = some t ∧ (t.status = .settling ∨ t.status = .held) ∧ t.sec = i)
        ∧ ∃ h, (r.sect i).status = .granted h ∧ h.convoy = c := by
  have named : i ∈ (((r.convoy c).route.drop ((r.convoy c).lead + 1)).filter RouteStep.isHeld).map RouteStep.sec
      ↔ ∃ n t, (r.convoy c).lead < n ∧ (r.convoy c).route[n]? = some t ∧ (t.status = .settling ∨ t.status = .held) ∧ t.sec = i := by
    have beyond (t : RouteStep) : t ∈ (r.convoy c).route.drop ((r.convoy c).lead + 1)
        ↔ ∃ n, (r.convoy c).lead < n ∧ (r.convoy c).route[n]? = some t := by
      simp only [List.mem_iff_getElem?, List.getElem?_drop]
      constructor
      · rintro ⟨n, step⟩
        exact ⟨_, by omega, step⟩
      · rintro ⟨n, above, step⟩
        exact ⟨n - ((r.convoy c).lead + 1), by rwa [Nat.add_sub_cancel' (by omega)]⟩
    simp only [List.mem_map, List.mem_filter, beyond, RouteStep.isHeld_iff]
    constructor
    · rintro ⟨t, ⟨⟨n, above, step⟩, held⟩, sec⟩
      exact ⟨n, t, above, step, held, sec⟩
    · rintro ⟨n, t, above, step, held, sec⟩
      exact ⟨t, ⟨⟨n, above, step⟩, held⟩, sec⟩
  rw [Road.handedBackSections, List.mem_filter, named]
  refine and_congr_right fun _ => ?_
  cases (r.sect i).status <;> simp

theorem handBack_eq (c : ConvoyId) (r : Road) :
    let v := r.convoy c
    let freed := r.handedBackSections c
    let left := leaveHolder freed { r with
      sections := Table.mapAll (fun i w => if i ∈ freed then { w with status := .free } else w) r.sections,
      convoys := Table.put r.convoys c ({ v with route := v.route.mapIdx fun n t =>
        if v.lead < n ∧ (t.status = .settling ∨ t.status = .held) ∧ t.sec ∈ freed then { t with status := .ahead } else t } :
          Convoy).reindex }
    handBack c r = if freed = [] then left else arbitrate left := by
  intro v freed left
  have steps : (fun (n : Nat) (t : RouteStep) => if (v.lead < n && t.isHeld && freed.contains t.sec) = true
        then { t with status := .ahead } else t)
      = fun n t => if v.lead < n ∧ (t.status = .settling ∨ t.status = .held) ∧ t.sec ∈ freed then { t with status := .ahead } else t := by
    funext n t
    refine if_congr ?_ rfl rfl
    rw [Bool.and_eq_true, Bool.and_eq_true, decide_eq_true_eq, RouteStep.isHeld_iff, List.contains_iff_mem, and_assoc]
  have passes : handBack c r = if freed.isEmpty then left else arbitrate left := by
    simp only [left, ← steps, ← Convoy.mapSteps_eq_mapIdx]
    rw [handBack, freeSections_eq]
    rfl
  rw [passes]
  refine if_congr ?_ rfl rfl
  rw [List.isEmpty_iff]

/-! ## STP (R60) -/

theorem ConvoyState.stoppable_iff (st : ConvoyState) :
    st.stoppable = true ↔ st = .plain .waiting ∨ st = .plain .running ∨ ∃ b, st = .halted b := by
  cases st with
  | vacant => simp [ConvoyState.stoppable]
  | plain b => cases b <;> simp [ConvoyState.stoppable]
  | halted b => simp [ConvoyState.stoppable]

theorem standStill_eq : standStill = fun b => if b = BaseState.waiting ∨ b = BaseState.running then .standing else b := by
  funext b
  cases b <;> rfl

theorem setBase_standStill_inactive (v : Convoy) : (setBase standStill v).state.active = false := by
  cases st : v.state with
  | vacant => simp only [setBase, st]; rfl
  | plain b => cases b <;> simp only [setBase, st] <;> rfl
  | halted b => cases b <;> simp only [setBase, st] <;> rfl

theorem mapBase_isHalted (f : BaseState → BaseState) (st : ConvoyState) : (st.mapBase f).isHalted = st.isHalted := by
  cases st <;> rfl

theorem answerStp_accepted {c : ConvoyId} {p : Part} (stoppable : (p.road.convoy c).state.stoppable = true) :
    answerStp [b8 c.val] p = accept (p.onRoad (stopConvoy c)).reviewHalts := by
  simp only [answerStp, stp, index?_b8 c (by decide : 8 ≤ 256), stoppable, if_true]

theorem answerStp_refused {c : ConvoyId} {p : Part} (still : (p.road.convoy c).state.stoppable = false) :
    answerStp [b8 c.val] p = refuse .badState p := by
  simp only [answerStp, stp, index?_b8 c (by decide : 8 ≤ 256), still]
  rfl

/-- Where nothing was asked for, settling or held beyond the lead, a stop changes the state alone. -/
theorem stopConvoy_quiet {c : ConvoyId} {r : Road} (unasked : (r.convoy c).asked = none) (norequest : r.request c = none)
    (settling : r.settling = []) (beyond : (r.convoy c).holdsBeyondLead = false) :
    stopConvoy c r = r.setConvoy c (setBase standStill (r.convoy c)).reindex := by
  rw [stopConvoy, withdrawAsked_none c r unasked norequest, handBack_none c r settling beyond, Road.updConvoy, Road.updConvoy,
    Road.convoy_setConvoy_self, Road.setConvoy_setConvoy]
  rfl

/-- Settles O39. -/
theorem stpStopsAConvoy : Obligations.StpStopsAConvoy := by
  refine ⟨fun c tag s ready => ⟨fun moves => ?stopped, fun still => ?refused⟩, fun c r => ⟨withdraw_of_none,
    fun q asked => withdraw_of_some asked, withdrawAsked_of_none, fun a b asked => ?asked⟩,
    fun c r => ⟨r.handedBackSections c, r.mem_handedBackSections c, handBack_eq c r⟩⟩
  case refused =>
    rw [← ConvoyState.stoppable_iff, Bool.not_eq_true] at still
    exact exec_answers ready (answerStp_refused still) rfl rfl
  case asked => rw [withdrawAsked_of_some asked, Convoy.restatus_eq]
  case stopped =>
    have stoppable := (s.part.road.convoy c).state.stoppable_iff.mpr moves
    have answer := (answerStp_accepted stoppable).trans (congrArg accept (reviewHalts_onRoad _ _))
    have back := (Road.handedBack_stopConvoy c s.part.road).trans
      (kept_reviewHalts s.part.cells s.part.drivers (stopConvoy c s.part.road)).handedBack
    refine ⟨_, exec_answers ready answer rfl rfl, ?_, back, ?_, fun unasked norequest settling clear beyond => ?_⟩
    · rw [stopConvoy, standStill_eq]
      rfl
    · refine ConvoyState.base_of_inactive ?_ ?_
      · rw [(back.convoys c).formed]
        rcases moves with st | st | ⟨b, st⟩ <;> rw [st] <;> rfl
      · rw [steady_reviewHalts _ _ _ c, stopConvoy, Road.convoy_updConvoy_self]
        exact setBase_standStill_inactive _
    · rw [stopConvoy_quiet unasked norequest settling ((s.part.road.convoy c).holdsBeyondLead_iff.mpr beyond), ← standStill_eq]
      refine (clear.change (r := s.part.road.setConvoy c (setBase standStill (s.part.road.convoy c)).reindex) (fun i => rfl)
        (fun k => ?_) fun k => ?_).road
      · by_cases own : k = c
        · subst own
          rw [Road.convoy_setConvoy_self]
          rfl
        · rw [Road.convoy_setConvoy_other _ _ _ own]
      · by_cases own : k = c
        · subst own
          rw [Road.convoy_setConvoy_self]
          exact mapBase_isHalted _ _
        · rw [Road.convoy_setConvoy_other _ _ _ own]

end Sys2Proof.Machine
end

section
/-! Bodies with a presence mask (R210), and TCV and SPD (R61, R76). -/

namespace Sys2Proof.Machine

/-! ## Reading back a body with a presence mask -/

theorem readFields_masked {szs : List Nat} {fs : List (Option Nat)} (fit : FieldsFit szs fs) (few : fs.length ≤ 8) :
    readFields szs (b8 (maskOf fs)).toNat (writeFields szs fs) = some fs := by
  have small : maskOf fs < 256 := (maskOf_lt fs).trans_le (Nat.pow_le_pow_right (by decide : 0 < 2) few)
  rw [b8_toNat small, readFields_writeFields fit]

theorem readFields_wideMasked {szs : List Nat} {fs : List (Option Nat)} (fit : FieldsFit szs fs) (few : fs.length ≤ 16) :
    readFields szs (halfOf (b8 (maskOf fs / 256)) (b8 (maskOf fs))) (writeFields szs fs) = some fs := by
  have small : maskOf fs < 65536 := (maskOf_lt fs).trans_le (Nat.pow_le_pow_right (by decide : 0 < 2) few)
  rw [halfOf_bytes small, readFields_writeFields fit]

theorem fieldOk_iff (f : Option Nat) (ok : Nat → Bool) : fieldOk f ok = true ↔ ∀ n, f = some n → ok n = true := by
  cases f <;> simp [fieldOk]

/-! ## TCV (R61) -/

theorem readTcv_tcvBody {q : TcvReq} (fit : FieldsFit tcvSizes
      [q.priority, q.lag, q.gapMin, q.gapMax, q.trimStep, q.source, q.cruise, q.ramp]) :
    readTcv (tcvBody q) = some q := by
  have read := readFields_masked fit (by simp)
  simp only [tcvBody, maskedBody, readTcv, read]

theorem demandSourceOf_isSome (n : Nat) (code : Nat) :
    (demandSourceOf? code n).isSome = true ↔ code ≤ 1 ∨ (code = 2 ∧ n ≤ 7) := by
  match code with
  | 0 => simp [demandSourceOf?]
  | 1 => simp [demandSourceOf?]
  | 2 =>
    by_cases small : n < 8
    · simp [demandSourceOf?, index?_of_lt small]
      omega
    · simp [demandSourceOf?, index?_none (Nat.not_lt.mp small)]
      omega
  | k + 3 => simp [demandSourceOf?]

/-- The values of TCV that the first check accepts. -/
def TcvReq.InRange (q : TcvReq) : Prop :=
  (∀ n, q.priority = some n → n ≤ 15) ∧ (∀ n, q.lag = some n → n ≤ 15)
    ∧ (∀ n, q.gapMin = some n → n ≤ 6000) ∧ (∀ n, q.gapMax = some n → n ≤ 6000)
    ∧ (∀ n, q.trimStep = some n → 1 ≤ n ∧ n ≤ 5)
    ∧ (∀ n, q.source = some n → n / 256 ≤ 1 ∨ (n / 256 = 2 ∧ n % 256 ≤ 7))
    ∧ (∀ n, q.cruise = some n → n ≤ 100) ∧ (∀ n, q.ramp = some n → 1 ≤ n ∧ n ≤ 20)

theorem TcvReq.valuesOk_iff (q : TcvReq) : q.valuesOk = true ↔ q.InRange := by
  simp only [TcvReq.valuesOk, Bool.and_eq_true, fieldOk_iff, decide_eq_true_eq, sourceField, demandSourceOf_isSome,
    TcvReq.InRange, and_assoc]

theorem Convoy.tuned_eq (q : TcvReq) (v : Convoy) :
    v.tuned q =
      let source := match q.source with
        | some n => (demandSourceOf? (n / 256) (n % 256)).getD v.source
        | none => v.source
      { v with
        priority := q.priority.getD v.priority, lag := q.lag.getD v.lag, gapMin := q.gapMin.getD v.gapMin,
        gapMax := q.gapMax.getD v.gapMax, trimStep := q.trimStep.getD v.trimStep, cruise := q.cruise.getD v.cruise,
        ramp := q.ramp.getD v.ramp, source := source, ttDemand := if v.source = source then v.ttDemand else 0,
        history := match q.lag with | some n => List.replicate (n * (v.members.length - 1)) 0 | none => v.history } := by
  unfold Convoy.tuned
  cases q.source <;> cases q.lag <;> rfl

section Tcv

variable {q : TcvReq} {c : ConvoyId} {p : Part} (convoy : q.convoy = b8 c.val)
  (fit : FieldsFit tcvSizes [q.priority, q.lag, q.gapMin, q.gapMax, q.trimStep, q.source, q.cruise, q.ramp])
include convoy fit

theorem answerTcv_body : answerTcv (tcvBody q) p =
    if !q.valuesOk then refuse .badVal p
    else if !(p.road.convoy c).state.formed then refuse .badState p
    else if q.gapMax.getD (p.road.convoy c).gapMax < q.gapMin.getD (p.road.convoy c).gapMin then refuse .badVal p
    else accept (p.onRoad fun r => r.updConvoy c (Convoy.tuned q)).reviewHalts := by
  have index : index? 8 q.convoy.toNat = some c := by rw [convoy]; exact index?_b8 c (by decide)
  simp only [answerTcv, readTcv_tcvBody fit, tcv, index]

end Tcv

section Spd

variable {c : ConvoyId} {speed : Byte} {p : Part}

theorem answerSpd_eq : answerSpd [b8 c.val, speed] p =
    if 100 < speed.toNat then refuse .badVal p
    else if !(p.road.convoy c).state.formed then refuse .badState p
    else accept (p.onRoad fun r => r.updConvoy c fun v => { v with hostSpeed := speed.toNat }) := by
  simp only [answerSpd, spd, index?_b8 c (by decide : 8 ≤ 256)]

end Spd

/-- Settles O40. -/
theorem tcvAndSpdTuneAConvoy : Obligations.TcvAndSpdTuneAConvoy := by
  refine ⟨fun q c tag s ready convoy fit => ?tcv, fun c speed tag s ready => ⟨fun slow formed => ?stored, fun fast => ?fast,
    fun slow vacant => ?vacant⟩⟩
  case tcv =>
    intro v refused inRange source tuned
    have answer := answerTcv_body (p := s.part) convoy fit
    have result : (s.part.road.convoy c).tuned q = tuned := Convoy.tuned_eq q v
    have ok : q.valuesOk = true ↔ inRange := q.valuesOk_iff
    have formed : (s.part.road.convoy c).state.formed = true ↔ v.state ≠ .vacant := ConvoyState.formed_iff _
    refine ⟨fun within isFormed gaps => ?_, fun outside => ?_, fun within vacant => ?_, fun within isFormed gaps => ?_⟩
    · have gapsOk : ¬ q.gapMax.getD (s.part.road.convoy c).gapMax < q.gapMin.getD (s.part.road.convoy c).gapMin :=
        Nat.not_lt.mpr gaps
      rw [ok.mpr within, formed.mpr isFormed, if_neg (by simp), if_neg (by simp), if_neg gapsOk, reviewHalts_onRoad,
        Road.updConvoy, result] at answer
      exact ⟨_, exec_answers ready answer rfl rfl, kept_reviewHalts _ _ _, rfl, fun clear => clear.road⟩
    · rw [Bool.not_eq_true _ |>.mp (mt ok.mp outside), if_pos (by rfl)] at answer
      exact exec_answers ready answer rfl rfl
    · rw [ok.mpr within, Bool.not_eq_true _ |>.mp (mt formed.mp (not_not_intro vacant)), if_neg (by simp), if_pos (by rfl)] at answer
      exact exec_answers ready answer rfl rfl
    · rw [ok.mpr within, formed.mpr isFormed, if_neg (by simp), if_neg (by simp), if_pos gaps] at answer
      exact exec_answers ready answer rfl rfl
  all_goals have answer := answerSpd_eq (c := c) (speed := speed) (p := s.part)
  case fast =>
    rw [if_pos fast] at answer
    exact exec_answers ready answer rfl rfl
  all_goals rw [if_neg (Nat.not_lt.mpr slow)] at answer
  case stored =>
    rw [(ConvoyState.formed_iff _).mpr formed, if_neg (by simp)] at answer
    exact exec_answers ready answer rfl rfl
  case vacant =>
    rw [Bool.not_eq_true _ |>.mp (mt (ConvoyState.formed_iff _).mp (not_not_intro vacant)), if_pos (by rfl)] at answer
    exact exec_answers ready answer rfl rfl

end Sys2Proof.Machine
end

section
/-! The beginning and the end of a halt (R93, R95 to R97, R103 to R106). -/

namespace Sys2Proof.Machine

/-! ## Cause sets -/

theorem and_not_or_and_not {w : Nat} (act set : BitVec w) : act &&& ~~~(set ||| (act &&& ~~~set)) = 0#w := by
  ext i low
  simp only [BitVec.getElem_and, BitVec.getElem_not, BitVec.getElem_or, BitVec.getElem_zero]
  cases act[i] <;> cases set[i] <;> rfl

/-- A cause set that covers active sources keeps them when the inactive ones leave. -/
theorem and_not_and_or {w : Nat} {act enabled set : BitVec w} (other : BitVec w) (covered : act &&& enabled &&& ~~~set = 0#w) :
    act &&& enabled &&& ~~~(set &&& (other ||| act)) = 0#w := by
  ext i low
  have bit := congrArg (fun b : BitVec w => b[i]) covered
  simp only [BitVec.getElem_and, BitVec.getElem_not, BitVec.getElem_or, BitVec.getElem_zero] at bit ⊢
  revert bit
  cases act[i] <;> cases set[i] <;> simp

theorem ne_zero_of_covers {w : Nat} {act set : BitVec w} (covered : act &&& ~~~set = 0#w) (some : act ≠ 0#w) : set ≠ 0#w := by
  intro none
  subst none
  exact some (by simpa using covered)

/-! ## Causes that join (R97) -/

theorem joinCauses_of_new {c : ConvoyId} {srcs : SourceSet} {r : Road} (formed : (r.convoy c).state ≠ .vacant)
    (new : srcs &&& (r.convoy c).halt.enabled &&& ~~~(r.convoy c).halt.causes ≠ 0) :
    joinCauses c srcs r = Road.raise srcConvoyHalted (subject c.val)
      (r.updConvoy c (Convoy.joined (srcs &&& (r.convoy c).halt.enabled &&& ~~~(r.convoy c).halt.causes))) := by
  have formed' := (ConvoyState.formed_iff _).mpr formed
  simp only [joinCauses, formed', Bool.true_and, decide_eq_true_eq]
  rw [if_pos new]

theorem joinCauses_of_none {c : ConvoyId} {srcs : SourceSet} {r : Road}
    (none : (r.convoy c).state = .vacant ∨ srcs &&& (r.convoy c).halt.enabled &&& ~~~(r.convoy c).halt.causes = 0) :
    joinCauses c srcs r = r := by
  unfold joinCauses
  rcases none with vacant | none
  · simp [vacant, ConvoyState.formed]
  · simp [none]

/-- The convoy after the given sources have joined. -/
def Convoy.joinedBy (srcs : SourceSet) (v : Convoy) : Convoy :=
  if v.state.formed && srcs &&& v.halt.enabled &&& ~~~v.halt.causes ≠ 0 then
    v.joined (srcs &&& v.halt.enabled &&& ~~~v.halt.causes)
  else v

theorem joinCauses_convoy_self (c : ConvoyId) (srcs : SourceSet) (r : Road) :
    (joinCauses c srcs r).convoy c = (r.convoy c).joinedBy srcs := by
  unfold joinCauses Convoy.joinedBy
  dsimp only
  split <;> simp [Road.updConvoy]

theorem joinCauses_convoy_other {c k : ConvoyId} (other : k ≠ c) (srcs : SourceSet) (r : Road) :
    (joinCauses c srcs r).convoy k = r.convoy k := by
  unfold joinCauses
  dsimp only
  split
  · simp [Road.updConvoy, Road.convoy_setConvoy_other _ _ _ other]
  · rfl

theorem foldl_joinCauses_convoy (srcs : SourceSet) (c : ConvoyId) (cs : List ConvoyId) (distinct : cs.Nodup) (r : Road) :
    (cs.foldl (fun r k => joinCauses k srcs r) r).convoy c
      = if c ∈ cs then (r.convoy c).joinedBy srcs else r.convoy c := by
  induction cs generalizing r with
  | nil => rfl
  | cons k ks ih =>
    obtain ⟨fresh, rest⟩ := List.nodup_cons.mp distinct
    rw [List.foldl_cons, ih rest]
    by_cases same : c = k
    · subst same
      rw [if_neg fresh, if_pos List.mem_cons_self, joinCauses_convoy_self]
    · rw [joinCauses_convoy_other same]
      exact if_congr (by simp [same]) rfl rfl

theorem driverHaltEvent_convoy (d : DriverId) (r : Road) (c : ConvoyId) :
    (driverHaltEvent d r).convoy c
      = if (r.convoy c).state.formed = true ∧ (r.convoy c).source = .driver d then
          (joinCauses c sourceDriverHalt r).convoy c
        else r.convoy c := by
  have distinct : (r.drivenBy d).Nodup := (Table.numbers_sorted _ _).imp fun below => Fin.ne_of_lt below
  rw [driverHaltEvent, foldl_joinCauses_convoy _ _ _ distinct, joinCauses_convoy_self]
  refine if_congr ?_ rfl rfl
  rw [Road.drivenBy, Table.mem_numbers, Bool.and_eq_true, decide_eq_true_eq]
  rfl

theorem Convoy.joinedBy_state_formed (srcs : SourceSet) (v : Convoy) : (v.joinedBy srcs).state.formed = v.state.formed := by
  unfold Convoy.joinedBy Convoy.joined
  split
  · cases v.state <;> rfl
  · rfl

theorem Convoy.joinedBy_source (srcs : SourceSet) (v : Convoy) : (v.joinedBy srcs).source = v.source := by
  unfold Convoy.joinedBy
  split <;> rfl

theorem Convoy.joinedBy_enabled (srcs : SourceSet) (v : Convoy) :
    (v.joinedBy srcs).halt.enabled = v.halt.enabled := by
  unfold Convoy.joinedBy
  split <;> rfl

/-- Every enabled source that joins is in the cause set afterwards. -/
theorem Convoy.joinedBy_covers (srcs : SourceSet) (v : Convoy) (formed : v.state ≠ .vacant) :
    srcs &&& v.halt.enabled &&& ~~~(v.joinedBy srcs).halt.causes = 0 := by
  unfold Convoy.joinedBy
  rw [(ConvoyState.formed_iff _).mpr formed, Bool.true_and]
  split
  next => exact and_not_or_and_not _ _
  next none => simpa using none

/-- A convoy with an enabled active source is HALTED afterwards, where a convoy that is not HALTED has no cause. -/
theorem Convoy.joinedBy_isHalted {srcs : SourceSet} {v : Convoy} (formed : v.state ≠ .vacant)
    (clean : v.state.isHalted = false → v.halt.causes = 0) (some : srcs &&& v.halt.enabled ≠ 0) :
    (v.joinedBy srcs).state.isHalted = true := by
  unfold Convoy.joinedBy
  rw [(ConvoyState.formed_iff _).mpr formed, Bool.true_and]
  split
  next =>
    simp only [Convoy.joined]
    cases state : v.state with
    | vacant => exact absurd state formed
    | plain b => rfl
    | halted b => rfl
  next none =>
    by_contra halted
    have causes := clean (Bool.eq_false_iff.mpr halted)
    exact ne_zero_of_covers (by simpa using none) some causes

/-! ## The end of a halt (R105, R106) -/

/-- The convoy that a halt end leaves in the state `b`. -/
def Convoy.haltEnded (b : BaseState) (v : Convoy) : Convoy :=
  { v with
    state := .plain b, ttDemand := 0, halt := { v.halt with causes := 0, rearm := true },
    history := List.replicate (v.lag * (v.members.length - 1)) 0 }

theorem Convoy.restarted_eq {v : Convoy} {b : BaseState} (after : v.afterHalt = .plain b) : v.restarted = v.haltEnded b := by
  simp only [Convoy.restarted, after]
  rfl

section HaltEnd

variable {c : ConvoyId} {r : Road} {b : BaseState}

theorem Convoy.afterHalt_of_still {v : Convoy} (halted : v.state = .halted b) (still : b = .standing ∨ b = .arrived) :
    v.afterHalt = .plain b := by
  rcases still with still | still <;> simp [Convoy.afterHalt, halted, still]

theorem Convoy.afterHalt_of_active {v : Convoy} (halted : v.state = .halted b) (active : b = .waiting ∨ b = .running) :
    v.afterHalt = if v.mayRun then .plain .running else .plain .waiting := by
  rcases active with active | active <;> simp [Convoy.afterHalt, halted, active]

theorem haltEnd_of_not_waiting (after : (r.convoy c).afterHalt = .plain b) (moves : b ≠ .waiting) :
    haltEnd c r = r.setConvoy c ((r.convoy c).haltEnded b) := by
  simp [haltEnd, Road.updConvoy, Convoy.restarted_eq after, Convoy.haltEnded, moves]

theorem haltEnd_of_still (halted : (r.convoy c).state = .halted b) (still : b = .standing ∨ b = .arrived) :
    haltEnd c r = r.setConvoy c ((r.convoy c).haltEnded b) :=
  haltEnd_of_not_waiting (Convoy.afterHalt_of_still halted still) (by rcases still with h | h <;> simp [h])

theorem haltEnd_of_clear (halted : (r.convoy c).state = .halted b) (active : b = .waiting ∨ b = .running)
    (clear : (r.convoy c).mayRun = true) : haltEnd c r = r.setConvoy c ((r.convoy c).haltEnded .running) :=
  haltEnd_of_not_waiting ((Convoy.afterHalt_of_active halted active).trans (if_pos clear)) (by simp)

theorem haltEnd_of_blocked (halted : (r.convoy c).state = .halted b) (active : b = .waiting ∨ b = .running)
    (blocked : (r.convoy c).mayRun = false) :
    haltEnd c r
      = if (r.convoy c).nextStatus = some .ahead ∧ (r.convoy c).asked = none then
          ask c ((r.convoy c).lead + 1) (r.setConvoy c ((r.convoy c).haltEnded .waiting))
        else r.setConvoy c ((r.convoy c).haltEnded .waiting) := by
  have after : (r.convoy c).afterHalt = .plain .waiting :=
    (Convoy.afterHalt_of_active halted active).trans (if_neg (by simp [blocked]))
  have next : ((r.convoy c).haltEnded .waiting).nextStatus = (r.convoy c).nextStatus := rfl
  simp only [haltEnd, Road.updConvoy, Convoy.restarted_eq after, Road.convoy_setConvoy_self, next]
  refine if_congr ?_ rfl rfl
  simp [Convoy.haltEnded]

end HaltEnd

/-! ## Causes that leave (R103) -/

section Leave

variable {active : SourceSet} {c : ConvoyId} {r : Road}

theorem leaveCauses_of_left (halted : (r.convoy c).state.isHalted = true) (auto : (r.convoy c).halt.restart = .auto)
    (kept : (r.convoy c).halt.causes &&& (~~~levelSources ||| active) ≠ 0) :
    leaveCauses active c r = r.setConvoy c { r.convoy c with
      halt := { (r.convoy c).halt with causes := (r.convoy c).halt.causes &&& (~~~levelSources ||| active) } } := by
  have ends : ((r.convoy c).state.isHalted && decide ((r.convoy c).halt.restart = .auto)) = true := by simp [halted, auto]
  simp only [leaveCauses]
  rw [if_pos ends, if_neg kept]
  rfl

theorem leaveCauses_of_none_left (halted : (r.convoy c).state.isHalted = true) (auto : (r.convoy c).halt.restart = .auto)
    (none : (r.convoy c).halt.causes &&& (~~~levelSources ||| active) = 0) : leaveCauses active c r = haltEnd c r := by
  simp [leaveCauses, halted, auto, none]

theorem leaveCauses_of_stays (stays : (r.convoy c).state.isHalted = false ∨ (r.convoy c).halt.restart = .manual) :
    leaveCauses active c r = r := by
  rcases stays with moving | manual
  · exact leaveCauses_of_not_halted active moving
  · simp [leaveCauses, manual]

end Leave

/-! ## Active level sources (R93, R95) -/

theorem getLsbD_cellLevels (cells : Table Cell 8) (b : Nat) :
    (cellLevels cells).getLsbD b = (List.finRange 8).any fun k => (Table.at cells k).output && decide (k.val = b) := by
  have fold (ks : List CellId) (m : SourceSet) :
      (ks.foldl (fun m k => if (Table.at cells k).output then m ||| BitVec.twoPow 13 k.val else m) m).getLsbD b
        = (m.getLsbD b || ks.any fun k => (Table.at cells k).output && decide (k.val = b)) := by
    induction ks generalizing m with
    | nil => simp
    | cons k ks ih =>
      have low : k.val < 13 := by omega
      rw [List.foldl_cons, ih, List.any_cons, ← Bool.or_assoc]
      cases output : (Table.at cells k).output <;> simp [BitVec.getLsbD_twoPow, low]
  rw [cellLevels, fold]
  simp

theorem getLsbD_cellLevels_cell (cells : Table Cell 8) (k : CellId) :
    (cellLevels cells).getLsbD k.val = (Table.at cells k).output := by
  rw [getLsbD_cellLevels, Bool.eq_iff_iff]
  simp [Fin.val_inj]

theorem getLsbD_cellLevels_high (cells : Table Cell 8) {b : Nat} (high : 8 ≤ b) : (cellLevels cells).getLsbD b = false := by
  rw [getLsbD_cellLevels, List.any_eq_false]
  intro k _
  have low := k.isLt
  simp
  omega

theorem sectionFaultActive_iff (r : Road) (c : ConvoyId) :
    r.sectionFaultActive c = true
      ↔ (∃ i h, (r.sect i).status.isFault = true ∧ (r.sect i).status.holding = some h ∧ h.convoy = c)
        ∨ (∃ q, r.request c = some q ∧ ∃ l ∈ q.legs, (r.sect l.sec).status.isFault = true)
        ∨ ∃ t ∈ r.settling, t.convoy = c ∧ ∃ i ∈ t.sections, (r.sect i).status.isFault = true := by
  have held : (r.heldSections c).any r.faulted = true
      ↔ ∃ i h, (r.sect i).status.isFault = true ∧ (r.sect i).status.holding = some h ∧ h.convoy = c := by
    simp only [List.any_eq_true, Road.heldSections, Table.mem_numbers, Section.heldBy_iff, Road.faulted]
    constructor
    · rintro ⟨i, ⟨h, holding, owner⟩, fault⟩
      exact ⟨i, h, fault, holding, owner⟩
    · rintro ⟨i, h, fault, holding, owner⟩
      exact ⟨i, ⟨h, holding, owner⟩, fault⟩
  unfold Road.sectionFaultActive
  rw [Bool.or_eq_true, Bool.or_eq_true, held, or_assoc]
  refine or_congr Iff.rfl (or_congr ?_ (by simp [Road.faulted]))
  cases r.request c <;> simp [Road.faulted]

theorem driverLostActive_iff (drivers : DriverPort) (v : Convoy) :
    driverLostActive drivers v = true ↔ ∃ d, v.source = .driver d ∧ (Table.at drivers.handsets d).presence = .lost := by
  unfold driverLostActive
  cases v.source <;> simp

section Levels

variable (cells : Table Cell 8) (drivers : DriverPort) {c : ConvoyId} {r : Road}

theorem activeLevels_of_vacant (vacant : (r.convoy c).state = .vacant) : activeLevels cells drivers c r = 0 := by
  simp [activeLevels, vacant, ConvoyState.formed]

theorem getLsbD_activeLevels (formed : (r.convoy c).state ≠ .vacant) (b : Nat) :
    (activeLevels cells drivers c r).getLsbD b
      = ((cellLevels cells).getLsbD b || driverLostActive drivers (r.convoy c) && decide (b = 8)
          || r.sectionFaultActive c && decide (b = 9)) := by
  have lost : sourceDriverLost = BitVec.twoPow 13 8 := rfl
  have fault : sourceSectionFault = BitVec.twoPow 13 9 := rfl
  simp only [activeLevels, (ConvoyState.formed_iff _).mpr formed, if_true, BitVec.getLsbD_or]
  congr 1
  · congr 1
    cases driverLostActive drivers (r.convoy c) <;> simp [lost, BitVec.getLsbD_twoPow, eq_comm]
  · cases r.sectionFaultActive c <;> simp [fault, BitVec.getLsbD_twoPow, eq_comm]

/-- The active level sources of a convoy depend on no more than its sections, its request, its settling groups and its demand
source. -/
theorem activeLevels_congr {r' : Road} (sections : r'.sections = r.sections) (requests : r'.requests = r.requests)
    (settling : r'.settling = r.settling) (formed : (r'.convoy c).state.formed = (r.convoy c).state.formed)
    (source : (r'.convoy c).source = (r.convoy c).source) :
    activeLevels cells drivers c r' = activeLevels cells drivers c r := by
  have faulted : r'.faulted = r.faulted := by
    funext i
    simp only [Road.faulted, Road.sect, sections]
  have lost : driverLostActive drivers (r'.convoy c) = driverLostActive drivers (r.convoy c) := by
    simp only [driverLostActive, source]
  have fault : r'.sectionFaultActive c = r.sectionFaultActive c := by
    simp only [Road.sectionFaultActive, Road.heldSections, Road.request, sections, requests, settling, faulted]
  simp only [activeLevels, formed, lost, fault]

theorem activeLevels_joinCauses (srcs : SourceSet) :
    activeLevels cells drivers c (joinCauses c srcs r) = activeLevels cells drivers c r := by
  refine activeLevels_congr _ _ ?_ ?_ ?_ ?_ ?_
  · unfold joinCauses
    dsimp only
    split <;> simp
  · unfold joinCauses
    dsimp only
    split <;> simp
  · unfold joinCauses
    dsimp only
    split <;> simp
  · rw [joinCauses_convoy_self, Convoy.joinedBy_state_formed]
  · rw [joinCauses_convoy_self, Convoy.joinedBy_source]

/-- An enabled active source halts the convoy, and all of them are causes afterwards (R97). -/
theorem reviewHalt_halts (formed : (r.convoy c).state ≠ .vacant)
    (clean : (r.convoy c).state.isHalted = false → (r.convoy c).halt.causes = 0)
    (some : activeLevels cells drivers c r &&& (r.convoy c).halt.enabled ≠ 0) :
    ((reviewHalt cells drivers c r).convoy c).state.isHalted = true
      ∧ activeLevels cells drivers c r &&& (r.convoy c).halt.enabled
          &&& ~~~((reviewHalt cells drivers c r).convoy c).halt.causes = 0 := by
  have levels := activeLevels_joinCauses cells drivers (c := c) (r := r) (activeLevels cells drivers c r)
  have halted := Convoy.joinedBy_isHalted formed clean some
  have covered := Convoy.joinedBy_covers (activeLevels cells drivers c r) (r.convoy c) formed
  have enabled := Convoy.joinedBy_enabled (activeLevels cells drivers c r) (r.convoy c)
  have self := joinCauses_convoy_self c (activeLevels cells drivers c r) r
  rw [← self] at halted covered enabled
  rw [← enabled] at covered some ⊢
  unfold reviewHalt
  dsimp only
  generalize activeLevels cells drivers c r = active at *
  generalize joinCauses c active r = joined at *
  rw [levels]
  by_cases auto : (joined.convoy c).halt.restart = .auto
  · have stays := and_not_and_or (~~~levelSources) covered
    have left := leaveCauses_of_left halted auto (ne_zero_of_covers stays some)
    have levels' : activeLevels cells drivers c (leaveCauses active c joined) = active := by
      rw [left, ← levels]
      exact activeLevels_congr _ _ (by simp) (by simp) (by simp) (by simp) (by simp)
    rw [levels', joinCauses_of_none (by rw [left]; simpa using .inr stays), left]
    simpa using ⟨halted, stays⟩
  · have manual : (joined.convoy c).halt.restart = .manual := by
      cases restart : (joined.convoy c).halt.restart with
      | auto => exact absurd restart auto
      | manual => rfl
    rw [leaveCauses_of_stays (.inr manual), levels, joinCauses_of_none (.inr covered)]
    exact ⟨halted, covered⟩

end Levels

/-! ## Re-arm under TIMETABLE (R88, R106) -/

/-- The first step up from 0 gives less than one percent. -/
theorem stepToward_zero_lt {target step : Nat} (small : step < 100) : stepToward target step 0 < 100 := by
  unfold stepToward
  split <;> omega

theorem Convoy.frame_rearm (mode : ModeControl) (drivers : DriverPort) (period : Nat) (v : Convoy) :
    (v.frame mode drivers period).1.halt.rearm
      = (v.halt.rearm && decide (leadDemand drivers (v.stepTimetable period) ≠ 0)) := by
  have rearm : (v.stepTimetable period).halt.rearm = v.halt.rearm := by
    unfold Convoy.stepTimetable
    split <;> rfl
  unfold Convoy.frame
  dsimp only
  rw [← rearm]
  split <;> rfl

theorem leadDemand_timetable_start (drivers : DriverPort) {period : Nat} {v : Convoy} (source : v.source = .timetable)
    (zero : v.ttDemand = 0) (ramp : v.ramp ≤ 20) (fast : period < 50) :
    leadDemand drivers (v.stepTimetable period) = 0 := by
  have small : v.ramp * period / 10 < 100 := by
    have product : v.ramp * period ≤ 20 * 49 := Nat.mul_le_mul ramp (by omega)
    omega
  have first := stepToward_zero_lt (target := v.cruise * 100) small
  have slow : (v.stepTimetable period).ttDemand < 100 := by
    simp only [Convoy.stepTimetable, source, zero]
    split <;> omega
  have source' : (v.stepTimetable period).source = .timetable := by
    simp only [Convoy.stepTimetable, source]
  simp only [leadDemand, source']
  omega

/-! ## The obligation -/

/-- Settles O43: each operation of the halt unit by its cases, and a review of one convoy through the cause set that the first
join leaves. -/
theorem haltsBeginAndEnd : Obligations.HaltsBeginAndEnd := by
  refine ⟨fun c srcs r => ⟨fun formed new => ?_, joinCauses_of_none⟩,
    fun active c r => ⟨leaveCauses_of_left, leaveCauses_of_none_left, leaveCauses_of_stays⟩, fun c r b => ?_,
    fun d r c => ?_, fun cells drivers c r => ⟨activeLevels_of_vacant cells drivers, fun formed => ?_⟩,
    fun cells drivers r => ⟨rfl, fun c => reviewHalt_halts cells drivers⟩,
    fun mode drivers period v source zero ramp fast => ?_⟩
  case refine_1 => exact joinCauses_of_new formed new
  case refine_2 =>
    have clearIff : (r.convoy c).mayRun = true
        ↔ (r.convoy c).route[(r.convoy c).lead + 1]? = none
          ∨ ∃ t, (r.convoy c).route[(r.convoy c).lead + 1]? = some t ∧ t.status = .held := by
      rw [Convoy.mayRun_iff, Convoy.nextStatus_eq, Option.map_eq_none_iff, Option.map_eq_some_iff]
    intro v clear ended halted
    refine ⟨haltEnd_of_still halted, fun active next => haltEnd_of_clear halted active (clearIff.mpr next),
      fun active next => ?_⟩
    have blocked := haltEnd_of_blocked halted active (Bool.eq_false_iff.mpr fun runs => next (clearIff.mp runs))
    refine ⟨fun ahead free => blocked.trans (if_pos ⟨ahead, free⟩), fun not => blocked.trans (if_neg ?_)⟩
    rintro ⟨ahead, free⟩
    exact not.elim (· ahead) (· free)
  case refine_3 =>
    refine ⟨fun formed source => (driverHaltEvent_convoy d r c).trans (if_pos ⟨formed, source⟩),
      fun not => (driverHaltEvent_convoy d r c).trans (if_neg ?_)⟩
    rintro ⟨formed, source⟩
    exact not.elim (by simp [formed]) (· source)
  case refine_4 =>
    refine ⟨fun k => ?_, ?_, ?_, fun k high => ?_⟩ <;> rw [getLsbD_activeLevels cells drivers formed]
    · have low := k.isLt
      rw [getLsbD_cellLevels_cell]
      simp [show k.val ≠ 8 by omega, show k.val ≠ 9 by omega]
    · rw [getLsbD_cellLevels_high cells (Nat.le_refl 8), ← driverLostActive_iff]
      simp
    · rw [getLsbD_cellLevels_high cells (by decide), ← sectionFaultActive_iff]
      simp
    · rw [getLsbD_cellLevels_high cells (by omega)]
      simp [show k ≠ 8 by omega, show k ≠ 9 by omega]
  case refine_5 => rw [Convoy.frame_rearm, leadDemand_timetable_start drivers source zero ramp fast]; simp

end Sys2Proof.Machine
end

section
/-! SHL, HLT and RSM (R99, R100, R104). -/

namespace Sys2Proof.Machine

/-! ## Codes outside their values -/

theorem throttleActionOf_none {n : Nat} (high : 3 < n) : throttleActionOf? n = none := by
  obtain ⟨k, rfl⟩ := Nat.exists_eq_add_of_le' (show 4 ≤ n from high)
  rfl

theorem lightsActionOf_none {n : Nat} (high : 3 < n) : lightsActionOf? n = none := by
  obtain ⟨k, rfl⟩ := Nat.exists_eq_add_of_le' (show 4 ≤ n from high)
  rfl

theorem restartModeOf_none {n : Nat} (high : 1 < n) : restartModeOf? n = none := by
  obtain ⟨k, rfl⟩ := Nat.exists_eq_add_of_le' (show 2 ≤ n from high)
  rfl

/-! ## SHL (R99) -/

theorem answerShl_eq {c : ConvoyId} {sources : Nat} (fits : sources < 65536) (a : ThrottleAction) (l : LightsAction)
    (m : RestartMode) (p : Part) :
    answerShl ([b8 c.val] ++ halfBytes sources ++ [b8 (throttleActionCode a), b8 (lightsActionCode l), b8 (restartModeCode m)]) p
      = if 8192 ≤ sources then refuse .badVal p
        else if (p.road.convoy c).state.isHalted then refuse .badState p
        else accept (p.onRoad fun r => r.updConvoy c (Convoy.setHalt (HaltRecord.configured sources a l m))).reviewHalts := by
  have read : readShl ([b8 c.val] ++ halfBytes sources ++ [b8 (throttleActionCode a), b8 (lightsActionCode l), b8 (restartModeCode m)])
      = some ⟨b8 c.val, sources, b8 (throttleActionCode a), b8 (lightsActionCode l), b8 (restartModeCode m)⟩ := by
    simp [readShl, halfBytes, halfOf_bytes fits]
  have throttle : throttleActionOf? (b8 (throttleActionCode a)).toNat = some a := by cases a <;> rfl
  have lights : lightsActionOf? (b8 (lightsActionCode l)).toNat = some l := by cases l <;> rfl
  have restart : restartModeOf? (b8 (restartModeCode m)).toNat = some m := by cases m <;> rfl
  simp only [answerShl, read, shl, index?_b8 c (by decide : 8 ≤ 256), throttle, lights, restart] <;> rfl

theorem answerShl_badVal {convoy hi lo throttle lights restart : Byte}
    (outside : 8 ≤ convoy.toNat ∨ 3 < throttle.toNat ∨ 3 < lights.toNat ∨ 1 < restart.toNat) (p : Part) :
    answerShl [convoy, hi, lo, throttle, lights, restart] p = refuse .badVal p := by
  simp only [answerShl, readShl, shl]
  split
  next c t l m convoy' throttle' lights' restart' =>
    rcases outside with high | high | high | high
    · rw [index?_none high] at convoy'
      cases convoy'
    · rw [throttleActionOf_none high] at throttle'
      cases throttle'
    · rw [lightsActionOf_none high] at lights'
      cases lights'
    · rw [restartModeOf_none high] at restart'
      cases restart'
  next => rfl

/-! ## HLT (R100) -/

theorem and_sourceHost_eq_zero (enabled : SourceSet) : enabled &&& sourceHost = 0 ↔ enabled.getLsbD 12 = false := by
  have host : sourceHost = BitVec.twoPow 13 12 := rfl
  rw [host, BitVec.and_twoPow]
  cases enabled.getLsbD 12 <;> simp

section Hlt

variable {c : ConvoyId} {p : Part}

theorem answerHlt_eq : answerHlt [b8 c.val] p =
    if !(p.road.convoy c).state.formed || (p.road.convoy c).halt.enabled &&& sourceHost = 0 then refuse .badState p
    else accept (p.onRoad (joinCauses c sourceHost)) := by
  simp only [answerHlt, hlt, index?_b8 c (by decide : 8 ≤ 256)]

theorem answerHlt_refused (deaf : (p.road.convoy c).state = .vacant ∨ (p.road.convoy c).halt.enabled.getLsbD 12 = false) :
    answerHlt [b8 c.val] p = refuse .badState p := by
  rw [answerHlt_eq, if_pos]
  rcases deaf with vacant | disabled
  · simp [vacant, ConvoyState.formed]
  · simp [(and_sourceHost_eq_zero _).mpr disabled]

theorem answerHlt_accepted (formed : (p.road.convoy c).state ≠ .vacant)
    (enabled : (p.road.convoy c).halt.enabled.getLsbD 12 = true) :
    answerHlt [b8 c.val] p = accept (p.onRoad (joinCauses c sourceHost)) := by
  have hears : (p.road.convoy c).halt.enabled &&& sourceHost ≠ 0 := fun none => by
    rw [(and_sourceHost_eq_zero _).mp none] at enabled
    cases enabled
  rw [answerHlt_eq, if_neg]
  simpa [(ConvoyState.formed_iff _).mpr formed] using hears

/-- The HOST event joins a convoy that enables it, unless it is a cause already. -/
theorem joinCauses_host {r : Road} (formed : (r.convoy c).state ≠ .vacant) (enabled : (r.convoy c).halt.enabled.getLsbD 12 = true) :
    joinCauses c sourceHost r =
      if (r.convoy c).halt.causes.getLsbD 12 then r
      else Road.raise srcConvoyHalted (subject c.val) (r.updConvoy c (Convoy.joined (BitVec.twoPow 13 12))) := by
  have heard : sourceHost &&& (r.convoy c).halt.enabled = BitVec.twoPow 13 12 := by
    rw [BitVec.and_comm, show sourceHost = BitVec.twoPow 13 12 from rfl, BitVec.and_twoPow, if_pos enabled]
  have new : sourceHost &&& (r.convoy c).halt.enabled &&& ~~~(r.convoy c).halt.causes
      = if (r.convoy c).halt.causes.getLsbD 12 then 0 else BitVec.twoPow 13 12 := by
    rw [heard, BitVec.and_comm, BitVec.and_twoPow, BitVec.getLsbD_not]
    cases (r.convoy c).halt.causes.getLsbD 12 <;> rfl
  by_cases cause : (r.convoy c).halt.causes.getLsbD 12 = true
  · rw [if_pos cause] at new ⊢
    exact joinCauses_of_none (.inr new)
  · rw [if_neg cause] at new ⊢
    rw [joinCauses_of_new formed (by rw [new]; decide), new]

end Hlt

/-! ## RSM (R104) -/

section Rsm

variable {c : ConvoyId} {p : Part}

theorem answerRsm_eq : answerRsm [b8 c.val] p =
    if !(p.road.convoy c).state.isHalted then refuse .badState p
    else if activeLevels p.cells p.drivers c p.road &&& (p.road.convoy c).halt.enabled ≠ 0 then
      (p, { status := .active,
            body := halfBytes (activeLevels p.cells p.drivers c p.road &&& (p.road.convoy c).halt.enabled).toNat })
    else accept (p.onRoad (haltEnd c)).reviewHalts := by
  simp only [answerRsm, rsm, index?_b8 c (by decide : 8 ≤ 256)]

end Rsm

/-- Settles O44. -/
theorem haltRequests : Obligations.HaltRequests := by
  refine ⟨fun c sources a l m tag s ready fits => ?shl,
    fun convoy hi lo throttle lights restart tag s ready outside => exec_answers ready (answerShl_badVal outside _) rfl rfl,
    fun c tag s ready => ⟨fun formed enabled => ?hlt, fun deaf => exec_answers ready (answerHlt_refused deaf) rfl rfl⟩,
    fun c tag s ready => ?rsm⟩
  case shl =>
    have answer := answerShl_eq (c := c) fits a l m s.part
    refine ⟨fun low moving => ?_, fun high => ?_, fun low halted => ?_⟩
    · rw [if_neg (by omega), moving, if_neg (by decide), reviewHalts_onRoad] at answer
      exact ⟨_, exec_answers ready answer rfl rfl, kept_reviewHalts _ _ _, rfl, fun clear => clear.road⟩
    · rw [if_pos high] at answer
      exact exec_answers ready answer rfl rfl
    · rw [if_neg (by omega), halted, if_pos rfl] at answer
      exact exec_answers ready answer rfl rfl
  case hlt =>
    have joined := joinCauses_host formed enabled
    have answer := answerHlt_accepted formed enabled
    rw [Part.onRoad_eq, joined] at answer
    exact exec_answers ready answer rfl rfl
  case rsm =>
    intro v active clear ended
    have answer := answerRsm_eq (c := c) (p := s.part)
    refine ⟨fun moving => ?_, fun halted some => ?_, fun b halted none => ?_⟩
    · rw [show (s.part.road.convoy c).state.isHalted = false from moving, if_pos (by rfl)] at answer
      exact exec_answers ready answer rfl rfl
    · rw [show (s.part.road.convoy c).state.isHalted = true from halted, if_neg (by decide), if_pos some] at answer
      exact exec_answers ready answer rfl rfl
    · have isHalted : (s.part.road.convoy c).state.isHalted = true := by
        rw [show (s.part.road.convoy c).state = .halted b from halted]
        rfl
      rw [isHalted, if_neg (by decide), if_neg (not_not_intro none), reviewHalts_onRoad] at answer
      refine ⟨_, exec_answers ready answer rfl rfl, (kept_haltEnd c _).trans (kept_reviewHalts _ _ _), rfl,
        fun still clear => ?_, fun waits next clear => ?_⟩
      · rw [haltEnd_of_still halted still]
        exact clear.road
      · have runs : (s.part.road.convoy c).mayRun = true := by
          rw [Convoy.mayRun_iff, Convoy.nextStatus_eq, Option.map_eq_none_iff, Option.map_eq_some_iff]
          exact next
        rw [haltEnd_of_clear halted waits runs]
        exact clear.road

end Sys2Proof.Machine
end

section
/-! The driver port's events (R78 to R81). -/

namespace Sys2Proof.Machine

/-- An event of the part, with the link quiet. -/
theorem exec_of_partEvent {c : Instr} {f : Part → Part} {s : State} {q : Part} (quiet : Quiet s) (event : exec c s = partEvent f s)
    (changes : f s.part = q) : exec c s = .next (transmit { s with part := q }) := by
  rw [event, partEvent_quiet quiet, State.onPart, changes]

/-! ## Wakes (R178, R184) -/

theorem wakeTrigger_of_park {p : Part} (park : p.mode.mode = .park) :
    wakeTrigger p = { p with
      mode := { p.mode with mode := .hold, latch := true },
      road := (p.road.raise srcModeChanged 0).raise srcParkWake 0 } := by
  have left : p.mode.to .hold = { p.mode with mode := .hold, latch := true } := by simp [ModeControl.to, park]
  rw [wakeTrigger, if_pos park, changeMode, left]
  rfl

theorem wakeTrigger_of_not_park {p : Part} (awake : p.mode.mode ≠ .park) : wakeTrigger p = p := if_neg awake

/-! ## Updates (R78, R79, R81) -/

theorem driverHaltEvent_of_none {d : DriverId} {r : Road}
    (none : ∀ c, (r.convoy c).state.formed = true → (r.convoy c).source ≠ .driver d) : driverHaltEvent d r = r := by
  have empty : r.drivenBy d = [] := by
    rw [List.eq_nil_iff_forall_not_mem]
    intro c driven
    rw [Road.drivenBy, Table.mem_numbers, Bool.and_eq_true, decide_eq_true_eq] at driven
    exact none c driven.1 driven.2
  rw [driverHaltEvent, empty]
  rfl

/-- The road that a press of HALT leaves, before the review of the halts. -/
def pressedRoad (d : DriverId) (h : Handset) (p : Part) : Road :=
  if h.halt = true ∧ (Table.at p.drivers.handsets d).halt = false then driverHaltEvent d p.road else p.road

theorem kept_pressedRoad (d : DriverId) (h : Handset) (p : Part) : Road.Kept p.road (pressedRoad d h p) := by
  unfold pressedRoad
  split
  · exact kept_driverHaltEvent d p.road
  · exact .refl _

theorem pressedRoad_quiet {d : DriverId} {h : Handset} {p : Part}
    (quiet : h.halt = false ∨ (Table.at p.drivers.handsets d).halt = true
      ∨ ∀ c, (p.road.convoy c).state.formed = true → (p.road.convoy c).source ≠ .driver d) :
    pressedRoad d h p = p.road := by
  unfold pressedRoad
  split
  next press =>
    rcases quiet with released | kept | undriven
    · exact absurd (press.1.symm.trans released) (by decide)
    · exact absurd (press.2.symm.trans kept) (by decide)
    · exact driverHaltEvent_of_none undriven
  next => rfl

theorem validUpdate_eq (d : DriverId) (h : Handset) (p : Part) :
    validUpdate d h p =
      let q := { p with drivers := p.drivers.set d h,
                        road := reviewHalts p.cells (p.drivers.set d h) (pressedRoad d h p) }
      if h.throttle ≠ 0 ∧ p.mode.driverWake = true then wakeTrigger q else q := by
  unfold validUpdate pressedRoad
  cases h.halt <;> cases (Table.at p.drivers.handsets d).halt <;> simp [Part.reviewHalts_eq, Part.onRoad_eq]

section HandsetUpdate

variable {throttle buttons : Byte} {p : Part}

theorem handsetUpdate_valid {d : DriverId} (low : -100 ≤ throttle.toInt) (high : throttle.toInt ≤ 100)
    (defined : buttons.toNat < 8) :
    handsetUpdate (b8 d.val) throttle buttons p = validUpdate d (updatedHandset throttle.toInt buttons) p := by
  simp only [handsetUpdate, index?_b8 d (by decide : 8 ≤ 256)]
  exact if_pos (by simp [low, high, defined])

theorem handsetUpdate_damaged {driver : Byte}
    (damaged : 8 ≤ driver.toNat ∨ throttle.toInt < -100 ∨ 100 < throttle.toInt ∨ 8 ≤ buttons.toNat) :
    handsetUpdate driver throttle buttons p
      = { p with drivers := { p.drivers with errors := countUp 255 p.drivers.errors } } := by
  unfold handsetUpdate
  split
  next d named =>
    refine if_neg ?_
    have known := lt_of_index?_eq_some named
    simp only [Bool.and_eq_true, decide_eq_true_eq]
    omega
  next => rfl

/-- A valid update of a layout that it does not wake. -/
theorem validUpdate_asleep {d : DriverId} {h : Handset}
    (asleep : ¬ (p.mode.mode = .park ∧ p.mode.driverWake = true ∧ h.throttle ≠ 0)) :
    validUpdate d h p = { p with
      drivers := p.drivers.set d h, road := reviewHalts p.cells (p.drivers.set d h) (pressedRoad d h p) } := by
  rw [validUpdate_eq]
  dsimp only
  split
  next pushes => exact wakeTrigger_of_not_park fun park => asleep ⟨park, pushes.2, pushes.1⟩
  next => rfl

/-- A valid update that wakes the layout. -/
theorem validUpdate_wakes {d : DriverId} {h : Handset}
    (wakes : p.mode.mode = .park ∧ p.mode.driverWake = true ∧ h.throttle ≠ 0) :
    validUpdate d h p = { p with
      drivers := p.drivers.set d h, mode := { p.mode with mode := .hold, latch := true },
      road := ((reviewHalts p.cells (p.drivers.set d h) (pressedRoad d h p)).raise srcModeChanged 0).raise srcParkWake 0 } := by
  obtain ⟨park, enabled, pushed⟩ := wakes
  rw [validUpdate_eq]
  dsimp only
  rw [if_pos ⟨pushed, enabled⟩]
  generalize reviewHalts _ _ _ = road
  have woken := wakeTrigger_of_park (p := { p with drivers := p.drivers.set d h, road := road }) park
  exact woken

end HandsetUpdate

/-! ## The lost timer (R80) -/

section LostTimer

variable {d : DriverId} {p : Part}

theorem lostTimerExpiry_of_due (due : (Table.at p.drivers.handsets d).presence = .present 0) :
    lostTimerExpiry d p = { p with
      drivers := p.drivers.set d Handset.lost,
      road := reviewHalts p.cells (p.drivers.set d Handset.lost) (p.road.raise srcDriverLost (subject d.val)) } := by
  rw [lostTimerExpiry, if_pos ((Handset.due_iff _).mpr due), Part.reviewHalts_eq]

theorem lostTimerExpiry_of_not_due (early : (Table.at p.drivers.handsets d).presence ≠ .present 0) : lostTimerExpiry d p = p :=
  if_neg (mt (Handset.due_iff _).mp early)

end LostTimer

/-- Settles O42. -/
theorem handsetsAreHeard : Obligations.HandsetsAreHeard := by
  refine ⟨fun d throttle buttons s quiet low high defined => ?valid,
    fun driver throttle buttons s quiet damaged => exec_of_partEvent quiet rfl (handsetUpdate_damaged damaged),
    fun d s quiet => ⟨fun due => ?lost, fun early => exec_of_partEvent quiet rfl (lostTimerExpiry_of_not_due early)⟩⟩
  case valid =>
    intro p old new drivers wakes
    have update : handsetUpdate (b8 d.val) throttle buttons p = validUpdate d new p := handsetUpdate_valid low high defined
    have kept := (kept_pressedRoad d new p).trans (kept_reviewHalts p.cells drivers _)
    refine ⟨_, kept, rfl, ?_, fun unpressed clear => ?_⟩
    · refine exec_of_partEvent quiet rfl (update.trans ?_)
      split
      next awake => exact validUpdate_wakes awake
      next asleep => exact validUpdate_asleep asleep
    · rw [pressedRoad_quiet unpressed]
      exact clear.reviewHalts
  case lost =>
    exact ⟨_, kept_reviewHalts _ _ _, rfl, exec_of_partEvent quiet rfl (lostTimerExpiry_of_due due), fun clear => clear.reviewHalts⟩

end Sys2Proof.Machine
end

section
/-! A convoy at a frame start: lead demand, re-arm, and the percentages of its members (R75, R77, R85 to R88). -/

namespace Sys2Proof.Machine

/-! ## Demand (R75, R77) -/

/-- The timetable demand after a frame start. -/
def Convoy.nextTimetable (period : Nat) (v : Convoy) : Nat :=
  match v.source with
  | .timetable =>
    if v.state = .plain .running then
      if v.ttDemand < v.cruise * 100 then min (v.ttDemand + v.ramp * period / 10) (v.cruise * 100)
      else max (v.ttDemand - v.ramp * period / 10) (v.cruise * 100)
    else 0
  | _ => v.ttDemand

theorem Convoy.stepTimetable_eq (period : Nat) (v : Convoy) :
    v.stepTimetable period = { v with ttDemand := v.nextTimetable period } := by
  unfold Convoy.stepTimetable Convoy.nextTimetable stepToward
  cases source : v.source <;> simp [← source]

/-- The lead demand that the convoy has at a frame start, once its timetable demand has stepped. -/
def Convoy.demandAt (drivers : DriverPort) (period : Nat) (v : Convoy) : Nat :=
  match v.source with
  | .host => v.hostSpeed
  | .timetable => v.nextTimetable period / 100
  | .driver d => match (Table.at drivers.handsets d).presence with
    | .present _ => (Table.at drivers.handsets d).throttle.toNat
    | .lost => 0

theorem leadDemand_stepTimetable (drivers : DriverPort) (period : Nat) (v : Convoy) :
    leadDemand drivers (v.stepTimetable period) = v.demandAt drivers period := by
  rw [Convoy.stepTimetable_eq]
  unfold leadDemand Convoy.demandAt Handset.demand
  cases v.source with
  | host => rfl
  | timetable => rfl
  | driver d =>
    dsimp only
    cases (Table.at drivers.handsets d).presence <;> rfl

/-! ## Percentages (R87) -/

theorem clampPercent_eq (n : Int) : clampPercent n = (max 0 (min 100 n)).toNat := by
  unfold clampPercent
  split <;> omega

theorem percentage_eq (mode : ModeControl) (trim : Int) (trimStep base : Nat) :
    percentage mode.cap trim trimStep base =
      let percent := if base = 0 then 0 else (max 0 (min 100 ((base : Int) + trim * trimStep))).toNat
      if mode.mode = .slow then min percent mode.slowLimit else percent := by
  unfold percentage ModeControl.cap
  by_cases zero : base = 0
  · simp [zero]
  · simp only [if_neg zero, ← clampPercent_eq]
    by_cases slow : mode.mode = .slow
    · simp only [if_pos slow]
    · simp only [if_neg slow]

/-- The percentage of the member at place `k`. -/
def Convoy.percentAt (mode : ModeControl) (given : Nat) (v : Convoy) (k : Nat) (m : Member) : Nat :=
  percentage mode.cap m.trim v.trimStep (((given :: v.history)[v.lag * k]?).getD 0)

theorem Convoy.percentages_eq (mode : ModeControl) (given : Nat) (v : Convoy) :
    v.percentages mode.cap given = v.members.mapIdx (v.percentAt mode given) := by
  rw [Convoy.percentages, List.mapIdx_eq_zipIdx_map]
  rfl

/-! ## The frame (R85, R86, R88) -/

/-- The convoy after the re-arm test, before its history takes the demand given. -/
def Convoy.tested (drivers : DriverPort) (period : Nat) (v : Convoy) : Convoy :=
  { v with
    ttDemand := v.nextTimetable period,
    halt := { v.halt with rearm := v.halt.rearm && decide (v.demandAt drivers period ≠ 0) } }

theorem Convoy.frame_eq (mode : ModeControl) (drivers : DriverPort) (period : Nat) (v : Convoy) :
    v.frame mode drivers period =
      let w := v.tested drivers period
      if w.drives mode then
        (w.pushed (v.demandAt drivers period),
          .percent (v.members.mapIdx (v.percentAt mode (v.demandAt drivers period))) w.travel)
      else (w.pushed 0, if w.state.isHalted then .halted else .neutral) := by
  have tested : (v.stepTimetable period).rearmTested (v.demandAt drivers period) = v.tested drivers period := by
    rw [Convoy.stepTimetable_eq]
    rfl
  simp only [Convoy.frame, leadDemand_stepTimetable, tested, Convoy.percentages_eq]
  rfl

theorem Convoy.pushed_history_length (given : Nat) (v : Convoy) : (v.pushed given).history.length = v.history.length := by
  simp [Convoy.pushed]

theorem Convoy.drives_iff (mode : ModeControl) (v : Convoy) :
    v.drives mode = true
      ↔ v.state = .plain .running ∧ (mode.mode = .run ∨ mode.mode = .slow) ∧ v.halt.rearm = false := by
  simp [Convoy.drives, and_assoc]

/-- Settles O41. -/
theorem membersFollowTheLead : Obligations.MembersFollowTheLead := by
  intro mode drivers period v w answer step target ttDemand demand rearm drives each
  have frame := v.frame_eq mode drivers period
  have drivesIff : (v.tested drivers period).drives mode = true ↔ drives := Convoy.drives_iff mode _
  have each' : v.percentAt mode (v.demandAt drivers period) = each := by
    funext k m
    exact percentage_eq mode m.trim v.trimStep _
  rw [each'] at frame
  by_cases driven : drives
  · simp only [drivesIff.mpr driven, if_true] at frame
    have convoy : w = (v.tested drivers period).pushed (v.demandAt drivers period) := congrArg Prod.fst frame
    have given : answer = .percent (v.members.mapIdx each) (v.tested drivers period).travel := congrArg Prod.snd frame
    refine ⟨⟨?_, ?_⟩, fun _ => ⟨?_, _, given, fun t lead => ?_⟩, fun stopped => absurd driven stopped⟩
    · rw [convoy]
      rfl
    · rw [convoy]
      exact Convoy.pushed_history_length _ _
    · rw [convoy]
      rfl
    · have lead' : (v.tested drivers period).route[(v.tested drivers period).lead]? = some t := lead
      simp only [Convoy.travel, lead']
  · have still : (v.tested drivers period).drives mode = false := Bool.eq_false_iff.mpr (mt drivesIff.mp driven)
    simp only [still, Bool.false_eq_true, if_false] at frame
    have convoy : w = (v.tested drivers period).pushed 0 := congrArg Prod.fst frame
    have given : answer = if v.state.isHalted then .halted else .neutral := congrArg Prod.snd frame
    refine ⟨⟨?_, ?_⟩, fun drives => absurd drives driven, fun _ => ⟨?_, ?_⟩⟩
    · rw [convoy]
      rfl
    · rw [convoy]
      exact Convoy.pushed_history_length _ _
    · rw [convoy]
      rfl
    · rw [given]
      cases v.state <;> rfl

end Sys2Proof.Machine
end

section
/-! The latch and the one-shot of a condition cell (R118 to R122). -/

namespace Sys2Proof.Machine

/-! ## SET_RESET and TOGGLE (R119, R120) -/

theorem Cell.apply_of_setReset {c : Cell} (fn : c.fn = .setReset) (g : Gates) :
    c.apply g = ({ c with latch := c.setReset g }, c.setReset g) := by
  simp [Cell.apply, fn]

theorem Cell.apply_of_toggle {c : Cell} (fn : c.fn = .toggle) (g : Gates) :
    c.apply g = ({ c with latch := c.toggled g }, c.toggled g) := by
  simp [Cell.apply, fn]

theorem Cell.apply_of_oneShot {c : Cell} (fn : c.fn = .oneShot) (g : Gates) :
    c.apply g = (c.oneShot g, (c.oneShot g).latch) := by
  simp [Cell.apply, fn]

theorem Cell.reloaded_of_reload {c : Cell} (reload : c.reload = true) : c.reloaded = { c.cleared with reload := false } := by
  simp [Cell.reloaded, reload]

theorem Cell.reloaded_of_kept {c : Cell} (kept : c.reload = false) : c.reloaded = c := by
  simp [Cell.reloaded, kept]

theorem Cell.scanned_of_disabled {c : Cell} (disabled : c.enabled = false) (gates : Cell → Gates) :
    c.scanned gates = { c.reloaded.cleared with output := false } := by
  simp [Cell.scanned, disabled]

/-- Settles O47. -/
theorem latchesSetResetAndToggle : Obligations.LatchesSetResetAndToggle := by
  intro c gates b g after
  refine ⟨fun enabled fn => ?setReset, fun enabled fn => ?toggle, fun reload => ?_, Cell.reloaded_of_kept, fun disabled => ?_⟩
  case setReset =>
    have scanned : after = { c.reloaded with latch := b.setReset g, output := b.setReset g != c.invert, last := some g.g1 } := by
      refine (Cell.scanned_of_enabled enabled gates).trans ?_
      rw [Cell.apply_of_setReset (c.reloaded_fn.trans fn)]
    rw [scanned]
    refine ⟨rfl, rfl, fun g3 g4 kept latch => ?_⟩
    have held : b.latch = true := by rw [show b = c from Cell.reloaded_of_kept kept, latch]
    simp [Cell.setReset, g3, g4, held]
  case toggle =>
    have scanned : after = { c.reloaded with latch := b.toggled g, output := b.toggled g != c.invert, last := some g.g1 } := by
      refine (Cell.scanned_of_enabled enabled gates).trans ?_
      rw [Cell.apply_of_toggle (c.reloaded_fn.trans fn)]
    rw [scanned]
    exact ⟨rfl, rfl, rfl⟩
  · simp only [b, Cell.reloaded_of_reload reload]
    exact ⟨rfl, rfl⟩
  · simp only [after, Cell.scanned_of_disabled disabled]
    exact ⟨rfl, rfl⟩

/-! ## ONE_SHOT (R121) -/

section OneShot

variable {c : Cell} (enabled : c.enabled = true) (fn : c.fn = .oneShot) (kept : c.reload = false)

include enabled fn kept in
theorem Cell.scanned_of_oneShot (gates : Cell → Gates) :
    c.scanned gates =
      { c.oneShot (gates c) with output := (c.oneShot (gates c)).latch != c.invert, last := some (gates c).g1 } := by
  rw [Cell.scanned_of_enabled enabled, Cell.reloaded_of_kept kept, Cell.apply_of_oneShot fn]

theorem Cell.oneShot_latch (c : Cell) (g : Gates) :
    (c.oneShot g).latch =
      if g.g3 || g.g4 then false else if c.rises g then true
      else c.latch && decide ((if c.latch then c.remaining - 5 else c.remaining) ≠ 0) := by
  unfold Cell.oneShot
  split
  · rfl
  · split
    · rfl
    · unfold Cell.runDown
      cases latch : c.latch <;> simp [latch, Bool.beq_eq_decide_eq]

theorem Cell.oneShot_remaining (c : Cell) (g : Gates) :
    (c.oneShot g).remaining =
      if g.g3 || g.g4 then 0 else if c.rises g then c.shotTime
      else if c.latch then c.remaining - 5 else c.remaining := by
  unfold Cell.oneShot
  split
  · rfl
  · split
    · rfl
    · unfold Cell.runDown
      split <;> rfl

theorem Cell.oneShot_rest (c : Cell) (g : Gates) :
    c.oneShot g = { c with latch := (c.oneShot g).latch, remaining := (c.oneShot g).remaining } := by
  have runDown : c.runDown = { c with latch := c.runDown.latch, remaining := c.runDown.remaining } := by
    unfold Cell.runDown
    split <;> rfl
  unfold Cell.oneShot
  split
  · rw [runDown]
  · split
    · rw [runDown]
    · exact runDown

end OneShot

/-- The gate values that start a one-shot and keep it running. -/
def shotGates : Gates := { g1 := true, g2 := false, g3 := false, g4 := false }

theorem shotGates_lets : ¬ (shotGates.g3 || shotGates.g4) = true := by decide

/-- A one-shot of `n` scans, `k` scans after the one that started it. -/
structure Cell.ShotAt (invert : Bool) (n k : Nat) (c : Cell) : Prop where
  enabled : c.enabled = true
  fn : c.fn = .oneShot
  kept : c.reload = false
  last : c.last = some true
  latch : c.latch = decide (k < n)
  remaining : c.remaining = 5 * (n - k)
  inverted : c.invert = invert
  output : c.output = (decide (k < n) != invert)

/-- The rise starts the one-shot. -/
theorem Cell.ShotAt.start {c : Cell} {n : Nat} (enabled : c.enabled = true) (fn : c.fn = .oneShot) (kept : c.reload = false)
    (low : c.last = some false) (time : c.shotTime = 5 * n) (some : 1 ≤ n) :
    Cell.ShotAt c.invert n 0 (c.scanned fun _ => shotGates) := by
  have rises : c.rises shotGates = true := by simp [Cell.rises, shotGates, low]
  have latch : (c.oneShot shotGates).latch = true := by rw [Cell.oneShot_latch, if_neg shotGates_lets, if_pos rises]
  have remaining : (c.oneShot shotGates).remaining = 5 * n := by
    rw [Cell.oneShot_remaining, if_neg shotGates_lets, if_pos rises, time]
  rw [Cell.scanned_of_oneShot enabled fn kept, Cell.oneShot_rest, latch, remaining]
  exact ⟨enabled, fn, kept, rfl, (decide_eq_true some).symm, rfl, rfl, by rw [decide_eq_true (show 0 < n from some)]⟩

/-- A scan without a new rise takes 5 ms. -/
theorem Cell.ShotAt.next {c : Cell} {invert : Bool} {n k : Nat} (shot : Cell.ShotAt invert n k c) :
    Cell.ShotAt invert n (k + 1) (c.scanned fun _ => shotGates) := by
  obtain ⟨enabled, fn, kept, last, latched, left, inverted, -⟩ := shot
  have rises : ¬ c.rises shotGates = true := by simp [Cell.rises, last]
  have ticks : (if c.latch then c.remaining - 5 else c.remaining) = 5 * (n - (k + 1)) := by
    rw [latched, left]
    simp only [decide_eq_true_eq]
    split <;> omega
  have remaining : (c.oneShot shotGates).remaining = 5 * (n - (k + 1)) := by
    rw [Cell.oneShot_remaining, if_neg shotGates_lets, if_neg rises, ticks]
  have latch : (c.oneShot shotGates).latch = decide (k + 1 < n) := by
    rw [Cell.oneShot_latch, if_neg shotGates_lets, if_neg rises, ticks, latched, ← Bool.decide_and, decide_eq_decide]
    omega
  rw [Cell.scanned_of_oneShot enabled fn kept, Cell.oneShot_rest, latch, remaining]
  exact ⟨enabled, fn, kept, rfl, rfl, rfl, inverted, by simp only [inverted]⟩

/-- The state of a one-shot after any number of scans under a gate 1 that stays true. -/
theorem Cell.ShotAt.scans {c : Cell} {n : Nat} (enabled : c.enabled = true) (fn : c.fn = .oneShot) (kept : c.reload = false)
    (low : c.last = some false) (time : c.shotTime = 5 * n) (some : 1 ≤ n) (k : Nat) :
    Cell.ShotAt c.invert n k (Nat.repeat (fun c : Cell => c.scanned fun _ => shotGates) (k + 1) c) := by
  induction k with
  | zero => exact .start enabled fn kept low time some
  | succ k ih => exact ih.next

theorem Cell.expired_eq (c : Cell) :
    c.expired = if c.enabled = true ∧ c.fn = .oneShot ∧ c.latch = true ∧ c.reload = false ∧ c.remaining ≤ 5 then
      { c with latch := false, remaining := 0 } else c := by
  refine if_congr ?_ rfl rfl
  simp [and_assoc]

/-- Settles O48: the time a rise holds the output is counted by `Cell.ShotAt`. -/
theorem oneShotsHoldTheirTime : Obligations.OneShotsHoldTheirTime := by
  refine ⟨fun c gates enabled fn kept => ?scan, fun c n k enabled fn kept low time some => ?time, fun k s running => ?expiry⟩
  case scan =>
    intro g after left still rises
    have scanned : after = { c.oneShot g with output := (c.oneShot g).latch != c.invert, last := some g.g1 } :=
      Cell.scanned_of_oneShot enabled fn kept gates
    rw [scanned]
    exact ⟨Cell.oneShot_latch c g, Cell.oneShot_remaining c g, rfl⟩
  case time => exact (Cell.ShotAt.scans enabled fn kept low time some k).output
  case expiry =>
    intro c ended
    have expired : c.expired = ended := Cell.expired_eq c
    rw [← expired]
    exact quietEvent_running running (oneShotExpiry k)

end Sys2Proof.Machine
end

section
/-! The scan of the condition cells and its report (R113, R122 to R124, R178). -/

namespace Sys2Proof.Machine

/-! ## A fold that replaces every record of a table once -/

section FoldUpd

variable {α : Type} {n : Nat} (f : Table α n → Fin n → α → α)

/-- The records listed, replaced in turn by what `f` makes of the table as it then stands. -/
def Table.sweep (ks : List (Fin n)) (t : Table α n) : Table α n := ks.foldl (fun t k => Table.upd t k (f t k)) t

variable {f}

theorem Table.sweep_cons (k : Fin n) (ks : List (Fin n)) (t : Table α n) :
    Table.sweep f (k :: ks) t = Table.sweep f ks (Table.upd t k (f t k)) := rfl

theorem Table.sweep_append (js ks : List (Fin n)) (t : Table α n) :
    Table.sweep f (js ++ ks) t = Table.sweep f ks (Table.sweep f js t) :=
  List.foldl_append

theorem Table.at_sweep_of_not_mem {ks : List (Fin n)} {j : Fin n} (unlisted : j ∉ ks) (t : Table α n) :
    Table.at (Table.sweep f ks t) j = Table.at t j := by
  induction ks generalizing t with
  | nil => rfl
  | cons k ks ih =>
    obtain ⟨other, rest⟩ := List.ne_and_not_mem_of_not_mem_cons unlisted
    rw [Table.sweep_cons, ih rest, Table.at_upd_other t other]

/-- A full ascending sweep takes each record from a table whose lower records are new and whose others are old. -/
theorem Table.at_sweep_finRange (t : Table α n) (k : Fin n) :
    ∃ outs, (∀ j, Table.at outs j = if j < k then Table.at (Table.sweep f (List.finRange n) t) j else Table.at t j)
      ∧ Table.at (Table.sweep f (List.finRange n) t) k = f outs k (Table.at t k) := by
  obtain ⟨lower, upper, split⟩ := List.append_of_mem (List.mem_finRange k)
  have sorted := List.pairwise_lt_finRange n
  rw [split, List.pairwise_append, List.pairwise_cons] at sorted
  obtain ⟨-, ⟨above, -⟩, below⟩ := sorted
  have mem (j : Fin n) : j ∈ lower ∨ j = k ∨ j ∈ upper := by simpa [split] using List.mem_finRange j
  have ismem (j : Fin n) : j ∈ lower ↔ j < k := by
    refine ⟨fun low => below j low k List.mem_cons_self, fun low => ?_⟩
    rcases mem j with listed | rfl | listed
    · exact listed
    · exact absurd low (lt_irrefl _)
    · exact absurd (low.trans (above j listed)) (lt_irrefl _)
  have whole : Table.sweep f (List.finRange n) t
      = Table.sweep f upper (Table.upd (Table.sweep f lower t) k (f (Table.sweep f lower t) k)) := by
    rw [split, Table.sweep_append, Table.sweep_cons]
  have notUpper {j : Fin n} (low : j ≤ k) : j ∉ upper := fun listed => absurd (above j listed) (not_lt.mpr low)
  have kept : Table.at (Table.sweep f lower t) k = Table.at t k :=
    Table.at_sweep_of_not_mem (mt (ismem k).mp (lt_irrefl k)) t
  refine ⟨Table.sweep f lower t, fun j => ?_, ?_⟩
  · split
    next low => rw [whole, Table.at_sweep_of_not_mem (notUpper low.le), Table.at_upd_other _ low.ne]
    next high => rw [Table.at_sweep_of_not_mem (mt (ismem j).mp high)]
  · rw [whole, Table.at_sweep_of_not_mem (notUpper le_rfl), Table.at_upd_self, kept]

end FoldUpd

/-! ## The cells (R122) -/

theorem Part.scanCells_eq_sweep (p : Part) :
    p.scanCells = Table.sweep (fun outs _ c => c.scanned (p.gates outs)) (List.finRange 8) p.cells := rfl

/-- Each cell is scanned from a table whose lower cells are new. -/
theorem Part.at_scanCells (p : Part) (k : CellId) :
    ∃ outs, (∀ j, Table.at outs j = if j < k then Table.at p.scanCells j else Table.at p.cells j)
      ∧ Table.at p.scanCells k = (Table.at p.cells k).scanned (p.gates outs) := by
  rw [Part.scanCells_eq_sweep]
  exact Table.at_sweep_finRange p.cells k

/-- A scan leaves what SCL set, and takes the reload up. -/
theorem Cell.scanned_eq (c : Cell) (gates : Cell → Gates) :
    c.scanned gates = { c with
      latch := (c.scanned gates).latch, remaining := (c.scanned gates).remaining, last := (c.scanned gates).last,
      output := (c.scanned gates).output, reload := false } := by
  have reload : c.reloaded = { c with
      latch := c.reloaded.latch, remaining := c.reloaded.remaining, last := c.reloaded.last, reload := false } := by
    cases reload : c.reload with
    | false => rw [Cell.reloaded_of_kept reload, ← reload]
    | true => rw [Cell.reloaded_of_reload reload]; rfl
  have applied (g : Gates) : (c.reloaded.apply g).1 = { c.reloaded with
      latch := (c.reloaded.apply g).1.latch, remaining := (c.reloaded.apply g).1.remaining } := by
    generalize c.reloaded = b
    cases fn : b.fn with
    | andOr => rw [Cell.apply_of_andOr fn]
    | orXor => rw [Cell.apply_of_orXor fn]
    | allFour => rw [Cell.apply_of_allFour fn]
    | setReset => rw [Cell.apply_of_setReset fn]
    | toggle => rw [Cell.apply_of_toggle fn]
    | oneShot => rw [Cell.apply_of_oneShot fn]; exact Cell.oneShot_rest b g
  cases enabled : c.enabled with
  | false =>
    rw [Cell.scanned_of_disabled enabled, reload, ← enabled]
    rfl
  | true =>
    rw [Cell.scanned_of_enabled enabled, applied, reload, ← enabled]

/-! ## The report (R124, R151, R178) -/

section Report

variable (before after : Table Cell 8)

/-- The output of cell `k` has changed, and its rise or fall notice is set. -/
def tellsEdge (k : CellId) : Bool :=
  ((Table.at before k).output != (Table.at after k).output)
    && if (Table.at after k).output then (Table.at after k).riseNotice else (Table.at after k).fallNotice

theorem edgeNotice_eq (k : CellId) (r : Road) :
    edgeNotice before after k r = if tellsEdge before after k then r.raise (srcCellEdge k) (subject k.val) else r := by
  unfold edgeNotice edgeOf tellsEdge
  cases old : (Table.at before k).output <;> cases new : (Table.at after k).output <;> simp

/-- The edge notices of the cells listed. -/
def edgeNotices (ks : List CellId) (r : Road) : Road := ks.foldl (fun r k => edgeNotice before after k r) r

theorem edgeNotices_rest (ks : List CellId) (r : Road) :
    edgeNotices before after ks r = { r with notices := (edgeNotices before after ks r).notices } := by
  refine foldl_keeps (P := fun q => q = { r with notices := q.notices }) ks r (fun q k _ same => ?_) rfl
  rw [edgeNotice_eq]
  split
  · rw [same]
    rfl
  · exact same

theorem srcCellEdge_inj {j k : CellId} (same : srcCellEdge j = srcCellEdge k) : j = k := by
  have value := congrArg Fin.val same
  simp only [srcCellEdge] at value
  exact Fin.ext (by omega)

theorem edgeNotices_source (ks : List CellId) (distinct : ks.Nodup) (r : Road) (j : CellId) :
    Table.at (edgeNotices before after ks r).notices.sources (srcCellEdge j)
      = if j ∈ ks ∧ tellsEdge before after j = true then
          (Table.at r.notices.sources (srcCellEdge j)).raised (subject j.val)
        else Table.at r.notices.sources (srcCellEdge j) := by
  induction ks generalizing r with
  | nil => simp [edgeNotices]
  | cons k ks ih =>
    obtain ⟨fresh, rest⟩ := List.nodup_cons.mp distinct
    rw [edgeNotices, List.foldl_cons]
    refine (ih rest _).trans ?_
    rw [edgeNotice_eq]
    by_cases same : j = k
    · subst same
      rw [if_neg fun told => fresh told.1]
      by_cases tells : tellsEdge before after j = true <;> simp [tells, NoticeControl.raise]
    · have other : srcCellEdge j ≠ srcCellEdge k := mt srcCellEdge_inj same
      have source : Table.at (if tellsEdge before after k then r.raise (srcCellEdge k) (subject k.val) else r).notices.sources
          (srcCellEdge j) = Table.at r.notices.sources (srcCellEdge j) := by
        split
        · simp [NoticeControl.raise, Table.at_upd_other _ other]
        · rfl
      rw [source]
      exact if_congr (by simp [same]) rfl rfl

theorem edgeNotices_of_none {ks : List CellId} (none : ∀ k, tellsEdge before after k = false) (r : Road) :
    edgeNotices before after ks r = r := by
  refine foldl_keeps (P := fun q => q = r) ks r (fun q k _ same => ?_) rfl
  rw [edgeNotice_eq, none k]
  exact same

/-- A scan's report of a line touches the flash phase alone. -/
theorem Line.scanReport_rest (hold : Bool) (l : Line) :
    l.scanReport hold before after = { l with flash := (l.scanReport hold before after).flash } := by
  unfold Line.scanReport Line.startFlash Line.stopFlash
  split
  · split
    · split <;> rfl
    · rfl
  · rfl

variable {before after}

theorem Line.scanReport_of_edge {up : Bool} {l : Line} (flash : l.function = .flash)
    (old : (Table.at before l.flashGate).output = !up) (new : (Table.at after l.flashGate).output = up) :
    (l.scanReport false before after).flash = if up then some { phase := true, left := l.flashPeriod / 2 } else none := by
  unfold Line.scanReport edgeOf
  cases up <;> simp [old, new, flash, Line.startFlash, Line.stopFlash]

theorem Line.scanReport_of_quiet {hold : Bool} {l : Line}
    (quiet : hold = true ∨ l.function ≠ .flash
      ∨ (Table.at after l.flashGate).output = (Table.at before l.flashGate).output) :
    l.scanReport hold before after = l := by
  unfold Line.scanReport edgeOf
  rcases quiet with held | plain | level
  · split <;> simp [held]
  · split <;> simp [plain]
  · simp [level]

theorem ModeControl.holdCellRises_iff (m : ModeControl) :
    m.holdCellRises before after = true
      ↔ ∃ k, m.holdCell = some k ∧ (Table.at before k).output = false ∧ (Table.at after k).output = true := by
  unfold ModeControl.holdCellRises edgeOf
  cases m.holdCell with
  | none => simp
  | some k =>
    cases old : (Table.at before k).output <;> cases new : (Table.at after k).output <;> simp [old, new]

end Report

/-! ## CELL_SCAN -/

theorem holdTrigger_eq (p : Part) :
    holdTrigger p =
      if p.mode.mode = .run || p.mode.mode = .slow then
        { p with mode := { p.mode with mode := .hold }, road := p.road.raise srcModeChanged 0 }
      else p := by
  unfold holdTrigger changeMode ModeControl.to
  cases mode : p.mode.mode <;> simp [Part.onRoad]

section Scan

variable (p : Part)

theorem scanRoad_eq :
    scanRoad p = edgeNotices p.cells p.scanCells (List.finRange 8) (p.road.mapLines (Line.scanReport p.parkHold p.cells p.scanCells)) :=
  rfl

/-- The scan is a hold trigger. -/
def scanHolds : Bool :=
  p.mode.holdCellRises p.cells p.scanCells && (p.mode.mode = .run || p.mode.mode = .slow)

/-- The mode controller after the scan. -/
def scanMode : ModeControl := if scanHolds p then { p.mode with mode := .hold } else p.mode

/-- The road after the report of the scan, before the review of the halts. -/
def scanTold : Road := if scanHolds p then (scanRoad p).raise srcModeChanged 0 else scanRoad p

theorem cellScan_eq :
    cellScan p = { p with
      cells := p.scanCells, pulses := { minute := false, quarter := false, hour := false },
      road := reviewHalts p.scanCells p.drivers (scanTold p), mode := scanMode p } := by
  have told : (if p.mode.holdCellRises p.cells p.scanCells then
        holdTrigger { p with cells := p.scanCells, pulses := { minute := false, quarter := false, hour := false }, road := scanRoad p }
      else { p with cells := p.scanCells, pulses := { minute := false, quarter := false, hour := false }, road := scanRoad p })
      = { p with
        cells := p.scanCells, pulses := { minute := false, quarter := false, hour := false },
        road := scanTold p, mode := scanMode p } := by
    rw [holdTrigger_eq]
    unfold scanMode scanTold scanHolds
    cases p.mode.holdCellRises p.cells p.scanCells with
    | false => rfl
    | true => cases mode : p.mode.mode <;> rfl
  exact (congrArg Part.reviewHalts told).trans (Part.reviewHalts_eq _)

/-- The report touches the lines' flash phases and the notices. -/
theorem scanTold_rest :
    scanTold p = { p.road with
      notices := (scanTold p).notices,
      lines := Table.mapAll (fun _ l => l.scanReport p.parkHold p.cells p.scanCells) p.road.lines } := by
  have road : scanRoad p = { p.road with
      notices := (scanRoad p).notices,
      lines := Table.mapAll (fun _ l => l.scanReport p.parkHold p.cells p.scanCells) p.road.lines } := by
    rw [scanRoad_eq]
    exact edgeNotices_rest _ _ _ _
  unfold scanTold
  split
  · rw [road]
    rfl
  · exact road

theorem scanTold_line (l : LineId) : (scanTold p).line l = (p.road.line l).scanReport p.parkHold p.cells p.scanCells := by
  rw [scanTold_rest]
  exact Table.at_mapAll _ _ _

theorem scanTold_source (k : CellId) :
    Table.at (scanTold p).notices.sources (srcCellEdge k)
      = if tellsEdge p.cells p.scanCells k then
          (Table.at p.road.notices.sources (srcCellEdge k)).raised (subject k.val)
        else Table.at p.road.notices.sources (srcCellEdge k) := by
  have road : Table.at (scanRoad p).notices.sources (srcCellEdge k)
      = if tellsEdge p.cells p.scanCells k then
          (Table.at p.road.notices.sources (srcCellEdge k)).raised (subject k.val)
        else Table.at p.road.notices.sources (srcCellEdge k) := by
    rw [scanRoad_eq, edgeNotices_source _ _ _ (List.nodup_finRange 8)]
    exact if_congr (by simp) rfl rfl
  rw [← road]
  unfold scanTold
  split
  · have other : srcCellEdge k ≠ srcModeChanged := fun same => by
      have value := congrArg Fin.val same
      simp only [srcCellEdge, srcModeChanged] at value
      omega
    simp [NoticeControl.raise, Table.at_upd_other _ other]
  · rfl

/-- A scan that changes no output leaves the road. -/
theorem scanTold_of_quiet (quiet : ∀ k, (Table.at p.scanCells k).output = (Table.at p.cells k).output) :
    scanTold p = p.road := by
  have still : p.mode.holdCellRises p.cells p.scanCells = false := by
    rw [← Bool.not_eq_true, ModeControl.holdCellRises_iff]
    rintro ⟨k, -, low, high⟩
    rw [quiet k, low] at high
    cases high
  have lines : p.road.mapLines (Line.scanReport p.parkHold p.cells p.scanCells) = p.road := by
    have same : Table.mapAll (fun _ l => l.scanReport p.parkHold p.cells p.scanCells) p.road.lines = p.road.lines :=
      Table.ext fun l => (Table.at_mapAll _ _ _).trans (Line.scanReport_of_quiet (.inr (.inr (quiet _))))
    simp only [Road.mapLines, same]
  have silent (k : CellId) : tellsEdge p.cells p.scanCells k = false := by simp [tellsEdge, quiet k]
  simp only [scanTold, scanHolds, still, Bool.false_and, Bool.false_eq_true, if_false, scanRoad_eq]
  rw [edgeNotices_of_none _ _ silent, lines]

end Scan

end Sys2Proof.Machine
end

section
/-! CELL_SCAN, and what the selectors read (R112 to R114, R122 to R124). -/

namespace Sys2Proof.Machine

theorem Cell.scanned_disabled {c : Cell} (disabled : c.enabled = false) (gates : Cell → Gates) :
    (c.scanned gates).output = false ∧ (c.scanned gates).latch = false ∧ (c.scanned gates).remaining = 0
      ∧ (c.scanned gates).last = none := by
  rw [Cell.scanned_of_disabled disabled]
  exact ⟨rfl, rfl, rfl, rfl⟩

theorem Part.scanCells_notices (p : Part) (k : CellId) :
    (Table.at p.scanCells k).riseNotice = (Table.at p.cells k).riseNotice
      ∧ (Table.at p.scanCells k).fallNotice = (Table.at p.cells k).fallNotice := by
  obtain ⟨outs, -, scanned⟩ := p.at_scanCells k
  rw [scanned, Cell.scanned_eq]
  exact ⟨rfl, rfl⟩

theorem tellsEdge_scanCells (p : Part) (k : CellId) :
    tellsEdge p.cells p.scanCells k = true
      ↔ (Table.at p.cells k).output ≠ (Table.at p.scanCells k).output
        ∧ (if (Table.at p.scanCells k).output then (Table.at p.cells k).riseNotice else (Table.at p.cells k).fallNotice) = true := by
  obtain ⟨rise, fall⟩ := p.scanCells_notices k
  rw [tellsEdge, rise, fall, Bool.and_eq_true, bne_iff_ne]

theorem scanHolds_iff (p : Part) :
    scanHolds p = true
      ↔ (∃ k, p.mode.holdCell = some k ∧ (Table.at p.cells k).output = false ∧ (Table.at p.scanCells k).output = true)
        ∧ (p.mode.mode = .run ∨ p.mode.mode = .slow) := by
  rw [scanHolds, Bool.and_eq_true, ModeControl.holdCellRises_iff]
  simp

/-- The notice of a cell edge is none of those that the halt unit raises. -/
theorem reviewHalts_source_edge (cells : Table Cell 8) (drivers : DriverPort) (r : Road) (k : CellId) :
    Table.at (reviewHalts cells drivers r).notices.sources (srcCellEdge k) = Table.at r.notices.sources (srcCellEdge k) := by
  have high : 12 ≤ (srcCellEdge k).val := Nat.le_add_right _ _
  have ne {i : SourceId} (low : i.val < 12) : srcCellEdge k ≠ i := fun same => by
    rw [same] at high
    omega
  exact (kept_reviewHalts cells drivers r).notices.others _ (ne (by decide)) (ne (by decide)) (ne (by decide))

section Scan

variable (p : Part)

/-- The road after the scan. -/
def scanReviewed : Road := reviewHalts p.scanCells p.drivers (scanTold p)

theorem scanReviewed_line (l : LineId) :
    (scanReviewed p).line l = { p.road.line l with
      flash := ((p.road.line l).scanReport p.parkHold p.cells p.scanCells).flash,
      junction := ((scanReviewed p).line l).junction } := by
  have kept := (kept_reviewHalts p.scanCells p.drivers (scanTold p)).lines l
  rw [scanTold_line, Line.scanReport_rest] at kept
  exact kept

theorem scanReviewed_flash (l : LineId) :
    ((scanReviewed p).line l).flash = ((p.road.line l).scanReport p.parkHold p.cells p.scanCells).flash := by
  rw [scanReviewed_line]

theorem scanTold_flash :
    scanTold p = { p.road with
      notices := (scanTold p).notices,
      lines := Table.mapAll (fun l v => { v with flash := ((scanReviewed p).line l).flash }) p.road.lines } := by
  have lines : Table.mapAll (fun _ l => l.scanReport p.parkHold p.cells p.scanCells) p.road.lines
      = Table.mapAll (fun l v => { v with flash := ((scanReviewed p).line l).flash }) p.road.lines := by
    refine Table.ext fun l => ?_
    rw [Table.at_mapAll, Table.at_mapAll, scanReviewed_flash]
    exact Line.scanReport_rest _ _ _ _
  rw [← lines]
  exact scanTold_rest p

theorem scanReviewed_source (k : CellId) :
    Table.at (scanReviewed p).notices.sources (srcCellEdge k)
      = if tellsEdge p.cells p.scanCells k then
          (Table.at p.road.notices.sources (srcCellEdge k)).raised (subject k.val)
        else Table.at p.road.notices.sources (srcCellEdge k) := by
  rw [scanReviewed, reviewHalts_source_edge, scanTold_source]

theorem scanReviewed_holds (holds : scanHolds p = true) :
    (Table.at (scanReviewed p).notices.sources srcModeChanged).pending = true := by
  have told : (Table.at (scanTold p).notices.sources srcModeChanged).pending = true := by
    simp [scanTold, holds, NoticeControl.raise, NoticeSource.raised]
  unfold scanReviewed
  exact (kept_reviewHalts p.scanCells p.drivers (scanTold p)).notices.pending _ told

theorem scanTold_convoy (c : ConvoyId) : (scanTold p).convoy c = p.road.convoy c := by
  rw [scanTold_rest]
  rfl

theorem scanTold_sect (i : SectionId) : (scanTold p).sect i = p.road.sect i := by
  rw [scanTold_rest]
  rfl

theorem scanReviewed_convoy (c : ConvoyId) : Convoy.Kept (p.road.convoy c) ((scanReviewed p).convoy c) := by
  rw [← scanTold_convoy]
  exact (kept_reviewHalts p.scanCells p.drivers (scanTold p)).convoys c

theorem scanReviewed_sect (i : SectionId) : Section.Kept (p.road.sect i) ((scanReviewed p).sect i) := by
  rw [← scanTold_sect]
  exact (kept_reviewHalts p.scanCells p.drivers (scanTold p)).sections i

end Scan

theorem Handset.isPresent_iff (h : Handset) : h.isPresent = true ↔ ∃ left, h.presence = .present left := by
  unfold Handset.isPresent
  cases h.presence <;> simp

theorem SectionStatus.isFault_iff (st : SectionStatus) : st.isFault = true ↔ ∃ cause h, st = .fault cause h := by
  cases st <;> simp [SectionStatus.isFault]

theorem ConvoyState.isHalted_iff (st : ConvoyState) : st.isHalted = true ↔ ∃ b, st = .halted b := by
  cases st <;> simp [ConvoyState.isHalted]

/-- Settles O49: each cell is scanned from the table that the ascending sweep has reached, and the report is one equation for
each line and each notice source. -/
theorem theScanRunsTheCells : Obligations.TheScanRunsTheCells := by
  refine ⟨fun s quiet => ?scan, fun p outs => ?reads⟩
  case scan =>
    intro p
    refine ⟨p.scanCells, scanReviewed p, scanMode p, exec_of_partEvent quiet rfl (cellScan_eq p), fun k => ?_, fun k => ?_,
      scanReviewed_convoy p, scanReviewed_sect p, fun l => ⟨?_, fun up free flash old new => ?_, fun still => ?_⟩,
      fun k changed set => ?_, fun k silent => ?_, ⟨fun rises driven => ?_, fun still => ?_⟩,
      ⟨scanTold p, rfl, scanTold_flash p⟩, fun quiet clear => ?_⟩
    · obtain ⟨outs, seen, scanned⟩ := p.at_scanCells k
      refine ⟨outs, seen, fun j => ?_, scanned⟩
      rw [← apply_ite Cell.output, ← seen j]
      rfl
    · obtain ⟨outs, -, scanned⟩ := p.at_scanCells k
      rw [scanned]
      exact ⟨by rw [Cell.scanned_eq], fun disabled => Cell.scanned_disabled disabled _⟩
    · rw [scanReviewed_flash]
      exact scanReviewed_line p l
    · rw [scanReviewed_flash, free]
      exact Line.scanReport_of_edge flash old new
    · rw [scanReviewed_flash, Line.scanReport_of_quiet still]
    · rw [scanReviewed_source, if_pos ((tellsEdge_scanCells p k).mpr ⟨changed, set⟩)]
      exact ⟨rfl, by simp [NoticeSource.raised, subject, show k.val < 64 by omega]⟩
    · rw [scanReviewed_source, if_neg fun tells => ?_]
      obtain ⟨changed, set⟩ := (tellsEdge_scanCells p k).mp tells
      exact silent.elim changed (by simp [set])
    · have holds := (scanHolds_iff p).mpr ⟨rises, driven⟩
      exact ⟨if_pos holds, scanReviewed_holds p holds⟩
    · refine if_neg fun holds => ?_
      obtain ⟨rises, driven⟩ := (scanHolds_iff p).mp holds
      exact still.elim (· rises) fun other => driven.elim other.1 other.2
    · rw [scanReviewed, scanTold_of_quiet p quiet]
      exact clear.reviewHalts
  case reads =>
    intro reads
    refine ⟨fun i h holding => ?_, fun i free => ?_, fun i => SectionStatus.isFault_iff _,
      fun c => ⟨decide_eq_true_iff, decide_eq_true_iff, ConvoyState.isHalted_iff _⟩, fun k => rfl,
      fun d => ⟨Handset.isPresent_iff _, rfl, rfl, rfl⟩, fun l => rfl, fun e => rfl, rfl, rfl, rfl,
      fun m => decide_eq_true_iff, rfl⟩
    · exact Option.isSome_iff_exists.mpr ⟨h, holding⟩
    · exact Option.isSome_eq_false_iff.mpr (Option.isNone_iff_eq_none.mpr free)

end Sys2Proof.Machine
end

section
/-! SCL (R125), and the optional fields of the requests with a presence mask (R210). -/

namespace Sys2Proof.Machine

/-! ## Mask bits that name no field -/

theorem readFields_extraMask (szs : List Nat) (mask extra : Nat) (bs : List Byte) :
    readFields szs (mask + 2 ^ szs.length * extra) bs = readFields szs mask bs := by
  induction szs generalizing mask bs with
  | nil => cases bs <;> rfl
  | cons sz szs ih =>
    have whole : mask + 2 ^ (sz :: szs).length * extra = mask + 2 * (2 ^ szs.length * extra) := by
      rw [List.length_cons, Nat.pow_succ]
      ring
    have bit : (mask + 2 ^ (sz :: szs).length * extra) % 2 = mask % 2 := by omega
    have rest : (mask + 2 ^ (sz :: szs).length * extra) / 2 = mask / 2 + 2 ^ szs.length * extra := by omega
    simp only [readFields, bit, rest, ih]

theorem readFields_of_mask {szs : List Nat} {fs : List (Option Nat)} (fit : FieldsFit szs fs) (length : fs.length = szs.length)
    (extra : Nat) : readFields szs (maskOf fs + 2 ^ fs.length * extra) (writeFields szs fs) = some fs := by
  rw [length, readFields_extraMask, readFields_writeFields fit]

/-- Requests whose bodies have one answer have one outcome. -/
theorem exec_congr {c d : Instr} {kind tag : Byte} {body other : List Byte} {f g : Part → Part × Reply} {s : State} (ready : Ready s)
    (hc : asRequest? c = some ⟨kind, tag, body⟩) (hd : asRequest? d = some ⟨kind, tag, other⟩)
    (hf : handle ⟨kind, tag, body⟩ = onPart f) (hg : handle ⟨kind, tag, other⟩ = onPart g) (same : f s.part = g s.part) :
    exec c s = exec d s := by
  rw [exec_ready hc ready hf, exec_ready hd ready hg, same]

/-! ## Optional fields -/

theorem reads_iff {α : Type} (f : Nat → Option α) (o : Option Nat) :
    reads f o = true ↔ ∀ n, o = some n → (f n).isSome = true := by
  cases o <;> simp [reads]

theorem flagOf_isSome (n : Nat) : (flagOf? n).isSome = true ↔ n ≤ 1 := by
  match n with
  | 0 => simp [flagOf?]
  | 1 => simp [flagOf?]
  | k + 2 => simp [flagOf?]

theorem newOr_flag {o : Option Nat} (small : ∀ n, o = some n → n ≤ 1) (old : Bool) :
    newOr flagOf? o old = (o.map fun n => decide (n = 1)).getD old := by
  cases o with
  | none => rfl
  | some n =>
    have low := small n rfl
    match n with
    | 0 => rfl
    | 1 => rfl

theorem termOf_isSome (n : Nat) : (termOf? n).isSome = true ↔ n ≤ 2 := by
  match n with
  | 0 => simp [termOf?]
  | 1 => simp [termOf?]
  | 2 => simp [termOf?]
  | k + 3 => simp [termOf?]

theorem gateOf_isSome (terms inv : Nat) :
    (gateOf? terms inv).isSome = true ↔ inv ≤ 1 ∧ ∀ j < 4, terms / 4 ^ j % 4 ≤ 2 := by
  have bits : (∀ j < 4, terms / 4 ^ j % 4 ≤ 2)
      ↔ terms % 4 ≤ 2 ∧ terms / 4 % 4 ≤ 2 ∧ terms / 16 % 4 ≤ 2 ∧ terms / 64 % 4 ≤ 2 := by
    refine ⟨fun each => ⟨by simpa using each 0 (by decide), by simpa using each 1 (by decide), by simpa using each 2 (by decide),
      by simpa using each 3 (by decide)⟩, ?_⟩
    rintro ⟨b0, b1, b2, b3⟩ j low
    match j with
    | 0 => simpa using b0
    | 1 => simpa using b1
    | 2 => simpa using b2
    | 3 => simpa using b3
  rw [bits, ← flagOf_isSome, ← termOf_isSome, ← termOf_isSome, ← termOf_isSome, ← termOf_isSome]
  unfold gateOf?
  cases termOf? (terms % 4) <;> cases termOf? (terms / 4 % 4) <;> cases termOf? (terms / 16 % 4) <;>
    cases termOf? (terms / 64 % 4) <;> cases flagOf? inv <;> simp

theorem cellFnOf_isSome (n : Nat) : (cellFnOf? n).isSome = true ↔ n ≤ 5 := by
  match n with
  | 0 => simp [cellFnOf?]
  | 1 => simp [cellFnOf?]
  | 2 => simp [cellFnOf?]
  | 3 => simp [cellFnOf?]
  | 4 => simp [cellFnOf?]
  | 5 => simp [cellFnOf?]
  | k + 6 => simp [cellFnOf?]

theorem nthField_eq (fs : List (Option Nat)) (i : Nat) : nthField fs i = fs[i]?.join := by
  rw [nthField, List.getD_eq_getElem?_getD]
  cases fs[i]? <;> rfl

/-! ## SCL -/

/-- The fields of an SCL request, in the order of the mask. -/
def SclReq.fields (q : SclReq) : List (Option Nat) :=
  [q.enable] ++ q.selectors ++ q.gates ++ [q.fn, q.invert, q.shotTime, q.rise, q.fall]

section Scl

variable {q : SclReq} (four : q.selectors.length = 4) (gates : q.gates.length = 4) (fit : FieldsFit sclSizes q.fields)
include four gates fit

theorem readScl_body {extra : Nat} (low : extra < 4) :
    readScl (q.cell :: (halfBytes (maskOf q.fields + 16384 * extra) ++ writeFields sclSizes q.fields)) = some q := by
  have length : q.fields.length = 14 := by simp [SclReq.fields, four, gates]
  have small : maskOf q.fields + 16384 * extra < 65536 := by
    have mask := maskOf_lt q.fields
    rw [length] at mask
    omega
  have read := readFields_of_mask fit length extra
  rw [length] at read
  obtain ⟨s1, s2, s3, s4, selectors⟩ := List.length_eq_four.mp four
  obtain ⟨g1, g2, g3, g4, gates⟩ := List.length_eq_four.mp gates
  have fields : q.fields = [q.enable, s1, s2, s3, s4, g1, g2, g3, g4, q.fn, q.invert, q.shotTime, q.rise, q.fall] := by
    simp [SclReq.fields, selectors, gates]
  have half := halfOf_bytes small
  rw [fields] at read half ⊢
  simp only [readScl, halfBytes, List.cons_append, List.nil_append, half]
  rw [show 16384 = 2 ^ 14 from rfl, read]
  simp only [← selectors, ← gates]

theorem answerScl_body {k : CellId} (cell : q.cell = b8 k.val) {extra : Nat} (low : extra < 4) (p : Part) :
    answerScl (q.cell :: (halfBytes (maskOf q.fields + 16384 * extra) ++ writeFields sclSizes q.fields)) p
      = if q.valuesOk then accept { p with cells := Table.upd p.cells k (Cell.configured q) } else refuse .badVal p := by
  have index : index? 8 q.cell.toNat = some k := by rw [cell]; exact index?_b8 k (by decide)
  simp only [answerScl, readScl_body four gates fit low, scl, index]

end Scl

/-- The values of SCL that its check accepts. -/
def SclReq.InRange (q : SclReq) : Prop :=
  (∀ n, q.enable = some n → n ≤ 1) ∧ (∀ n, some n ∈ q.selectors → (selectorOf? (n / 256) (n % 256)).isSome = true)
    ∧ (∀ n, some n ∈ q.gates → n % 256 ≤ 1 ∧ ∀ j < 4, n / 256 / 4 ^ j % 4 ≤ 2)
    ∧ (∀ n, q.fn = some n → n ≤ 5) ∧ (∀ n, q.invert = some n → n ≤ 1)
    ∧ (∀ n, q.shotTime = some n → 100 ≤ n ∧ n ≤ 25500 ∧ n % 100 = 0) ∧ (∀ n, q.rise = some n → n ≤ 1)
    ∧ (∀ n, q.fall = some n → n ≤ 1)

theorem all_reads_iff {α : Type} (f : Nat → Option α) (fs : List (Option Nat)) :
    fs.all (reads f) = true ↔ ∀ n, some n ∈ fs → (f n).isSome = true := by
  rw [List.all_eq_true]
  refine ⟨fun each n listed => (reads_iff f _).mp (each _ listed) n rfl, fun each o listed => (reads_iff f o).mpr fun n some => ?_⟩
  exact each n (some ▸ listed)

theorem all_shotTimeOk_iff (o : Option Nat) :
    o.all shotTimeOk = true ↔ ∀ n, o = some n → 100 ≤ n ∧ n ≤ 25500 ∧ n % 100 = 0 := by
  cases o <;> simp [shotTimeOk, and_assoc]

theorem SclReq.valuesOk_iff (q : SclReq) : q.valuesOk = true ↔ q.InRange := by
  simp only [SclReq.valuesOk, Bool.and_eq_true, all_reads_iff, reads_iff, flagOf_isSome, cellFnOf_isSome, all_shotTimeOk_iff,
    gateField, gateOf_isSome, selectorField, SclReq.InRange, and_assoc]

/-- Settles O50. -/
theorem sclConfiguresACell : Obligations.SclConfiguresACell := by
  intro q k tag s ready cell four gates fields fit c flag inRange bit
  have answer {extra : Nat} (low : extra < 4) := answerScl_body four gates fit cell low s.part
  have plain := answer (extra := 0) (by decide)
  have ok : q.valuesOk = true ↔ inRange := q.valuesOk_iff
  refine ⟨fun extra low => ?_, fun within => ?_, fun outside => ?_⟩
  · exact exec_congr ready rfl rfl rfl rfl ((answer low).trans plain.symm)
  · rw [if_pos (ok.mpr within)] at plain
    refine ⟨_, exec_answers ready plain rfl rfl, fun j other => Table.at_upd_other _ other _, ?_, fun i => ?_⟩
    · obtain ⟨enable, -, -, -, invert, -, rise, fall⟩ := within
      rw [Table.at_upd_self]
      simp only [Cell.configured, newOr_flag enable, newOr_flag invert, newOr_flag rise, newOr_flag fall]
      rfl
    · rw [Table.at_upd_self, ← nthField_eq, ← nthField_eq]
      exact ⟨Table.at_mapAll _ _ i, Table.at_mapAll _ _ i⟩
  · rw [if_neg (mt ok.mp outside)] at plain
    exact exec_answers ready plain rfl rfl

end Sys2Proof.Machine
end

section
/-! SSL, SCH, KEY, RLS and SFP (R128, R129, R137 to R140). -/

namespace Sys2Proof.Machine

/-! ## SSL -/

theorem flagsOf_isSome (n : Nat) : (flagsOf? n).isSome = true ↔ n < 16 := by
  unfold flagsOf?
  split <;> simp <;> omega

/-- The flags that the low bits of a number name. -/
def flagsOfBits (n : Nat) : ChannelFlags :=
  { throttle := n.testBit 0, coupler := n.testBit 1, lights := n.testBit 2, aux := n.testBit 3 }

theorem flagsOf_eq {n : Nat} (small : n < 16) : flagsOf? n = some (flagsOfBits n) := by
  simp [flagsOf?, small, flagsOfBits, Nat.testBit_eq_decide_div_mod_eq]

theorem newOr_flags {o : Option Nat} (small : ∀ n, o = some n → n < 16) (old : ChannelFlags) :
    newOr flagsOf? o old = (o.map flagsOfBits).getD old := by
  cases o with
  | none => rfl
  | some n => rw [newOr, Option.bind_some, flagsOf_eq (small n rfl)]; rfl

/-- The values of SSL that its first check accepts. -/
def SslReq.InRange (q : SslReq) : Prop :=
  (∀ n, q.address = some n → n = 0xFF ∨ (1 ≤ n ∧ n ≤ 60))
    ∧ (∀ n, q.span = some n → 100 ≤ n ∧ n ≤ 600) ∧ (∀ n, q.brake = some n → n ≤ 600)
    ∧ (∀ n, q.deadFR = some n → n ≤ 3000 ∧ n % 100 = 0) ∧ (∀ n, q.deadRF = some n → n ≤ 3000 ∧ n % 100 = 0)
    ∧ (∀ n, q.reverse = some n → n < 16)

theorem all_iff (o : Option Nat) (f : Nat → Bool) : o.all f = true ↔ ∀ n, o = some n → f n = true := by
  cases o <;> simp

theorem SslReq.valuesOk_iff (q : SslReq) : q.valuesOk = true ↔ q.InRange := by
  simp only [SslReq.valuesOk, Bool.and_eq_true, Bool.or_eq_true, all_iff, decide_eq_true_eq, reads_iff, flagsOf_isSome,
    deadTimeOk, SslReq.InRange, and_assoc]

theorem Part.addressTaken_iff (p : Part) (i : SlotId) (a : Nat) :
    p.addressTaken i a = true
      ↔ ∃ j, j ≠ i ∧ ((Table.at p.composer.slots j).settings.address = some a
          ∨ ∃ w, (Table.at p.composer.slots j).waiting = some w ∧ w.address = some a) := by
  unfold Part.addressTaken
  rw [List.any_eq_true]
  simp only [Bool.and_eq_true, Bool.or_eq_true, decide_eq_true_eq, Option.bind_eq_some_iff]
  constructor
  · rintro ⟨⟨j, t⟩, listed, other, taken⟩
    replace listed : t = Table.at p.composer.slots j := (Table.mem_entries _ _).mp listed
    subst listed
    exact ⟨j, other, taken⟩
  · rintro ⟨j, other, taken⟩
    exact ⟨(j, Table.at p.composer.slots j), (Table.mem_entries _ _).mpr rfl, other, taken⟩

theorem SslReq.addressInUse_iff (q : SslReq) (i : SlotId) (p : Part) :
    q.addressInUse i p = true ↔ ∃ n, q.address = some n ∧ n ≠ 0xFF ∧ p.addressTaken i n = true := by
  unfold SslReq.addressInUse
  cases q.address <;> simp

section Ssl

variable {q : SslReq} {i : SlotId} (slot : q.slot = b8 i.val)
  (fit : FieldsFit sslSizes [q.address, q.span, q.brake, q.deadFR, q.deadRF, q.reverse])
include slot fit

theorem answerSsl_body {extra : Nat} (low : extra < 4) (p : Part) :
    answerSsl (q.slot :: b8 (maskOf [q.address, q.span, q.brake, q.deadFR, q.deadRF, q.reverse] + 64 * extra)
        :: writeFields sslSizes [q.address, q.span, q.brake, q.deadFR, q.deadRF, q.reverse]) p
      = if !q.valuesOk then refuse .badVal p
        else if q.addressInUse i p then refuse .inUse p
        else if (p.slot i).onAir = .offAir then
          accept ((p.setSlot i ((p.slot i).given q).applied).onRoad (Road.raise srcSlotApplied (subject i.val)))
        else accept (p.setSlot i ((p.slot i).given q)) := by
  have mask := maskOf_lt [q.address, q.span, q.brake, q.deadFR, q.deadRF, q.reverse]
  have small : maskOf [q.address, q.span, q.brake, q.deadFR, q.deadRF, q.reverse] + 64 * extra < 256 := by
    simp only [List.length_cons, List.length_nil] at mask
    omega
  have index : index? 24 q.slot.toNat = some i := by rw [slot]; exact index?_b8 i (by decide)
  have read := readFields_of_mask fit rfl extra
  simp only [answerSsl, readSsl, b8_toNat small]
  rw [show 64 = 2 ^ [q.address, q.span, q.brake, q.deadFR, q.deadRF, q.reverse].length from rfl, read]
  simp only [ssl, index] <;> rfl

end Ssl

/-- Settles O51. -/
theorem sslSetsASlot : Obligations.SslSetsASlot := by
  intro q i tag s ready slot fields fit t refused dead inRange taken old new put
  have answer {extra : Nat} (low : extra < 4) := answerSsl_body slot fit low s.part
  have plain := answer (extra := 0) (by decide)
  have ok : q.valuesOk = true ↔ inRange := q.valuesOk_iff
  have inUse : q.addressInUse i s.part = true ↔ taken := by
    simp only [q.addressInUse_iff, Part.addressTaken_iff, taken]
  have settings (within : inRange) : q.settings (t.waiting.getD t.settings) = new := by
    obtain ⟨-, -, -, -, -, reverse⟩ := within
    simp only [SslReq.settings, newOr_flags reverse, new]
    cases q.reverse <;> rfl
  refine ⟨fun extra low => exec_congr ready rfl rfl rfl rfl ((answer low).trans plain.symm), fun within free => ⟨fun off => ?_,
    fun on => ?_⟩, fun outside => ?_, fun within busy => ?_⟩
  · rw [ok.mpr within, if_neg (by simp), if_neg (mt inUse.mp free), if_pos (show (s.part.slot i).onAir = .offAir from off)] at plain
    rw [← settings within]
    exact exec_answers ready plain rfl rfl
  · rw [ok.mpr within, if_neg (by simp), if_neg (mt inUse.mp free), if_neg (show ¬ (s.part.slot i).onAir = .offAir from on)] at plain
    rw [← settings within]
    exact exec_answers ready plain rfl rfl
  · rw [Bool.eq_false_iff.mpr (mt ok.mp outside), if_pos (by rfl)] at plain
    exact exec_answers ready plain rfl rfl
  · rw [ok.mpr within, if_neg (by simp), if_pos (inUse.mpr busy)] at plain
    exact exec_answers ready plain rfl rfl

/-! ## SCH, KEY, RLS, SFP -/

theorem answerSch_eq {i : SlotId} (channel : Fin 4) (m : ChannelMode) {value : Nat} (fits : value < 65536) (p : Part) :
    answerSch ([b8 i.val, b8 channel.val, b8 (channelModeCode m)] ++ halfBytes value) p
      = if value < 800 || 2200 < value then refuse .badVal p
        else
          match (p.slot i).channels.set channel.val { mode := m, value } with
          | some c => accept (p.setSlot i { p.slot i with channels := c })
          | none => refuse .badVal p := by
  have mode : channelModeOf? (b8 (channelModeCode m)).toNat = some m := by cases m <;> rfl
  have number : (b8 channel.val).toNat = channel.val := b8_toNat (by omega)
  simp only [answerSch, halfBytes, List.cons_append, List.nil_append, halfOf_bytes fits, sch,
    index?_b8 i (by decide : 24 ≤ 256), mode, number] <;> rfl

/-- Settles O52. -/
theorem slotRequests : Obligations.SlotRequests := by
  refine ⟨fun i channel m value tag s ready fits => ?sch, fun i tag s ready => ⟨?key, ?rls⟩, fun ms tag s ready => ?sfp⟩
  case sch =>
    have answer := answerSch_eq (i := i) channel m fits s.part
    refine ⟨fun low high => ?_, fun outside => ?_⟩
    · rw [if_neg (by simp; omega)] at answer
      match channel with
      | 0 => exact exec_answers ready answer rfl rfl
      | 1 => exact exec_answers ready answer rfl rfl
      | 2 => exact exec_answers ready answer rfl rfl
      | 3 => exact exec_answers ready answer rfl rfl
    · rw [if_pos (by simpa using outside)] at answer
      exact exec_answers ready answer rfl rfl
  case key =>
    have answer : answerKey [b8 i.val] s.part = accept (s.part.setSlot i { s.part.slot i with keyed := true }) := by
      simp only [answerKey, keying, index?_b8 i (by decide : 24 ≤ 256)]
    exact exec_answers ready answer rfl rfl
  case rls =>
    have answer : answerRls [b8 i.val] s.part = accept (s.part.setSlot i { s.part.slot i with keyed := false }) := by
      simp only [answerRls, keying, index?_b8 i (by decide : 24 ≤ 256)]
    exact exec_answers ready answer rfl rfl
  case sfp =>
    have answer : answerSfp [ms] s.part = if ms.toNat ∈ [14, 18, 22, 30, 45] then
        accept { s.part with composer := { s.part.composer with period := ms.toNat } } else refuse .badVal s.part :=
      if_congr List.contains_iff_mem rfl rfl
    refine ⟨fun allowed => ?_, fun other => ?_⟩
    · rw [if_pos allowed] at answer
      exact exec_answers ready answer rfl rfl
    · rw [if_neg other] at answer
      exact exec_answers ready answer rfl rfl

end Sys2Proof.Machine
end

section
/-! The throttle of a slot: shaping, brake, dead-time hold and reverse map (R131 to R134). -/

namespace Sys2Proof.Machine

theorem shaped_zero (span : Nat) (t : Travel) : shaped span 0 t = Throttle.rest := rfl

theorem shaped_of_ne {percent : Nat} (moves : percent ≠ 0) (span : Nat) (t : Travel) :
    shaped span percent t = {
      value := {
        us := match t with | .forward => 1500 + span * percent / 100 | .reverse => 1500 - span * percent / 100,
        composed := true },
      cls := .drive t } := by
  rw [shaped, if_neg moves] <;> cases t <;> rfl

section Hold

variable {now : Nat} {v : Throttle} {t : Slot}

theorem Slot.hold_of_stop (stop : v.cls = .stop) : t.hold now v = (v, t.stopping now) := by
  simp only [Slot.hold, stop]

theorem Slot.hold_of_drive {d : Travel} (drive : v.cls = .drive d) :
    t.hold now v =
      if t.direction = some d || t.rested now (t.deadTime d) then
        (v, { t with direction := some d, neutralSince := none })
      else (Throttle.rest, t.stopping now) := by
  simp only [Slot.hold, drive]

theorem Slot.rested_iff (dead : Nat) :
    t.rested now dead = true ↔ ∃ since, t.neutralSince = some since ∧ dead ≤ now - since := by
  unfold Slot.rested
  cases t.neutralSince <;> simp

/-- The dead time of a change of direction, and of a first drive value. -/
theorem Slot.deadTime_eq {d : Travel} {dead : Nat}
    (turns : (t.direction = some .forward ∧ d = .reverse ∧ dead = t.settings.deadFR)
      ∨ (t.direction = some .reverse ∧ d = .forward ∧ dead = t.settings.deadRF)
      ∨ (t.direction = none ∧ dead = max t.settings.deadFR t.settings.deadRF)) :
    t.deadTime d = dead ∧ t.direction ≠ some d := by
  rcases turns with ⟨runs, rfl, rfl⟩ | ⟨runs, rfl, rfl⟩ | ⟨runs, rfl⟩
  · simp [Slot.deadTime, runs]
  · simp [Slot.deadTime, runs]
  · simp [Slot.deadTime, runs]

end Hold

/-- Settles O54. -/
theorem throttleIsShapedAndHeld : Obligations.ThrottleIsShapedAndHeld := by
  refine ⟨fun span percent t => ⟨fun zero => by rw [zero]; rfl, fun moves => shaped_of_ne moves span t⟩,
    fun depth d => ?brake, fun now v t => ⟨Slot.hold_of_stop, fun d drive => ⟨fun same => ?same, fun dead turns => ?turns⟩⟩,
    fun v reverse => ?mapped⟩
  case brake =>
    cases d with
    | none => rfl
    | some d => cases d <;> rfl
  case same =>
    rw [Slot.hold_of_drive drive, if_pos (by simp [same])]
  case turns =>
    obtain ⟨deadTime, other⟩ := Slot.deadTime_eq turns
    have moves : (t.direction = some d || t.rested now (t.deadTime d)) = t.rested now dead := by
      rw [deadTime, decide_eq_false other, Bool.false_or]
    refine ⟨fun rested => ?_, fun early => ?_⟩
    · rw [Slot.hold_of_drive drive, moves, if_pos ((Slot.rested_iff dead).mpr rested)]
    · rw [Slot.hold_of_drive drive, moves, if_neg (mt (Slot.rested_iff dead).mp early)]
      rfl
  case mapped =>
    exact if_congr (by simp) rfl rfl

end Sys2Proof.Machine
end

section
/-! One slot at a frame start (R130, R135, R136, R139, R141 to R143). -/

namespace Sys2Proof.Machine

/-! ## The on-air decision (R136, R143) -/

section Decide

variable {now : Nat} {hold : Bool} {drivers : DriverPort} {place : Option Place} {t : Slot}

theorem Slot.decide_of_awake (awake : t.onAir = .offAir ∨ t.onAir = .onAir) :
    t.decide hold place = if t.ready place && !hold then (.onAir, true) else (.offAir, false) := by
  rcases awake with off | on
  · simp only [Slot.decide, off]
  · simp only [Slot.decide, on]

theorem Slot.decide_of_rundown {n : Nat} (rundown : t.onAir = .rundown n) :
    t.decide hold place =
      if !t.ready place then (.offAir, false)
      else if !hold then (.onAir, true)
      else if n = 0 then (.offAir, false) else (.rundown (n - 1), true) := by
  simp only [Slot.decide, rundown]
  cases n <;> rfl

/-- A frame lists exactly the slots that it leaves on the air. -/
theorem Slot.decide_listed (hold : Bool) (place : Option Place) (t : Slot) :
    (t.decide hold place).2 = true ↔ (t.decide hold place).1 ≠ .offAir := by
  cases air : t.onAir with
  | offAir => rw [Slot.decide_of_awake (.inl air)]; split <;> simp
  | onAir => rw [Slot.decide_of_awake (.inr air)]; split <;> simp
  | rundown n =>
    rw [Slot.decide_of_rundown air]
    split
    · simp
    · split
      · simp
      · split <;> simp

theorem Slot.framed_onAir : (t.framed now hold drivers place).onAir = (t.decide hold place).1 := by
  unfold Slot.framed
  dsimp only
  split
  next => exact Slot.composed_onAir _ _ _ _ _
  next unlisted =>
    rw [Slot.silenced_onAir]
    by_contra other
    exact unlisted ((Slot.decide_listed hold place t).mpr (Ne.symm other))

theorem Slot.framed_of_off (off : (t.framed now hold drivers place).onAir = .offAir) :
    t.framed now hold drivers place = t.silenced := by
  rw [Slot.framed_onAir] at off
  unfold Slot.framed
  exact if_neg fun listed => (Slot.decide_listed hold place t).mp listed off

theorem Slot.framed_of_on (on : (t.framed now hold drivers place).onAir ≠ .offAir) :
    t.framed now hold drivers place = t.composed now drivers (t.framed now hold drivers place).onAir place := by
  rw [Slot.framed_onAir] at on ⊢
  unfold Slot.framed
  exact if_pos ((Slot.decide_listed hold place t).mpr on)

theorem Slot.applied_eq (t : Slot) : t.applied = { t with settings := t.waiting.getD t.settings, waiting := none } := by
  unfold Slot.applied
  cases pending : t.waiting with
  | none =>
    have same : t = { t with waiting := none } := by rw [← pending]
    exact same
  | some s => rfl

theorem Slot.silenced_eq (t : Slot) :
    t.silenced = { t with
      onAir := .offAir, neutralSince := none, settings := t.waiting.getD t.settings, waiting := none } := by
  rw [Slot.silenced, Slot.applied_eq]

end Decide

/-! ## The words of a listed slot (R130, R134, R139, R141) -/

section Composed

variable (now : Nat) (drivers : DriverPort) (air : OnAir) (place : Option Place) (t : Slot)

theorem Slot.hold_rest (v : Throttle) :
    (t.hold now v).2 = { t with
      direction := (t.hold now v).2.direction, neutralSince := (t.hold now v).2.neutralSince } := by
  unfold Slot.hold
  split
  · rfl
  · split <;> rfl

theorem Slot.hold_withAir (v : Throttle) :
    ({ t with onAir := air } : Slot).hold now v = ((t.hold now v).1, { (t.hold now v).2 with onAir := air }) := by
  have rested (dead : Nat) : ({ t with onAir := air } : Slot).rested now dead = t.rested now dead := rfl
  have deadTime (d : Travel) : ({ t with onAir := air } : Slot).deadTime d = t.deadTime d := rfl
  unfold Slot.hold
  cases v.cls with
  | stop => rfl
  | drive d =>
    dsimp only
    rw [rested, deadTime]
    split <;> rfl

/-- The throttle of the slot before the dead-time hold, on the air as `air` says. -/
def Slot.wanted : Throttle := ({ t with onAir := air } : Slot).throttle place

/-- The pending set applies in this frame: the throttle sent is neutral. -/
def Slot.appliesNow : Bool := t.waiting.isSome && (t.hold now (t.wanted air place)).1.value.us = 1500

/-- The settings that the frame uses. -/
def Slot.settingsNow : SlotSettings :=
  if t.appliesNow now air place then t.waiting.getD t.settings else t.settings

/-- What the slot sends. -/
def Slot.words : Sent :=
  let held := t.hold now (t.wanted air place)
  let flags := (t.settingsNow now air place).reverse
  { throttle := if t.appliesNow now air place then 1500 else held.1.value.mapped flags.throttle,
    cls := if t.appliesNow now air place then .stop else held.1.cls,
    coupler := (t.coupler place).mapped flags.coupler, lights := (t.lights place).mapped flags.lights,
    aux := (t.aux drivers place).mapped flags.aux }

theorem Slot.composed_eq :
    t.composed now drivers air place = { t with
      onAir := air, direction := (t.hold now (t.wanted air place)).2.direction,
      neutralSince := (t.hold now (t.wanted air place)).2.neutralSince,
      sent := some (t.words now drivers air place), settings := t.settingsNow now air place,
      waiting := if t.appliesNow now air place then none else t.waiting } := by
  have rest (reverse : Bool) : Throttle.rest.value.mapped reverse = 1500 := by cases reverse <;> rfl
  have held := Slot.hold_rest now t (t.wanted air place)
  have applies : (({ t with onAir := air } : Slot).waiting.isSome
      && (({ t with onAir := air } : Slot).hold now (({ t with onAir := air } : Slot).throttle place)).1.value.us = 1500)
      = t.appliesNow now air place := by
    rw [Slot.hold_withAir]
    rfl
  unfold Slot.composed
  dsimp only
  rw [applies, Slot.hold_withAir, show ({ t with onAir := air } : Slot).throttle place = t.wanted air place from rfl]
  unfold Slot.words Slot.settingsNow
  generalize t.hold now (t.wanted air place) = pair at held ⊢
  obtain ⟨throttle, slot⟩ := pair
  dsimp only at held ⊢
  generalize slot.direction = direction at held ⊢
  generalize slot.neutralSince = since at held ⊢
  subst held
  cases t.appliesNow now air place with
  | false => rfl
  | true =>
    simp only [if_true, Slot.applied_eq, rest]
    rfl

end Composed

/-! ## The steered channels (R130) -/

theorem mapped_fixedValue (c : Channel) (reverse : Bool) : c.fixedValue.mapped reverse = c.value := rfl

theorem mapped_composed (us : Nat) (reverse : Bool) :
    Value.mapped reverse { us := us, composed := true } = if reverse then 3000 - us else us := by
  cases reverse <;> rfl

theorem ConvoyState.locks_iff (st : ConvoyState) :
    st.locks = true ↔ (st = .plain .waiting ∨ st = .plain .running) ∨ ∃ b, st = .halted b := by
  cases st with
  | vacant => simp [ConvoyState.locks]
  | plain b => cases b <;> simp [ConvoyState.locks]
  | halted b => simp [ConvoyState.locks]

section Channels

variable {place : Option Place} {t : Slot}

theorem Slot.coupler_of_fixed (fixed : t.channels.coupler.mode = .fixed) : t.coupler place = t.channels.coupler.fixedValue := by
  simp only [Slot.coupler, fixed]

theorem Slot.coupler_of_steered (steered : t.channels.coupler.mode = .steered) :
    t.coupler place =
      if ∃ q, place = some q ∧ q.convoy.state.locks = true then { us := 1000, composed := true }
      else t.channels.coupler.fixedValue := by
  cases place <;> simp [Slot.coupler, steered]

theorem Slot.lights_of_fixed (fixed : t.channels.lights.mode = .fixed) : t.lights place = t.channels.lights.fixedValue := by
  simp only [Slot.lights, fixed]

theorem Slot.lights_of_still (still : ∀ q, place = some q → q.convoy.state.locks = false) :
    t.lights place = t.channels.lights.fixedValue := by
  cases mode : t.channels.lights.mode with
  | fixed => exact Slot.lights_of_fixed mode
  | steered =>
    cases place with
    | none => simp only [Slot.lights, mode]
    | some q =>
      have stopped := still q rfl
      cases state : q.convoy.state with
      | vacant => simp only [Slot.lights, mode, state]
      | plain b => cases b <;> simp_all [Slot.lights, ConvoyState.locks]
      | halted b => simp [state, ConvoyState.locks] at stopped

theorem Slot.lights_of_moving {q : Place} (steered : t.channels.lights.mode = .steered)
    (moving : q.convoy.state = .plain .waiting ∨ q.convoy.state = .plain .running) :
    t.lights (some q) = { us := 2000, composed := true } := by
  rcases moving with state | state <;> simp only [Slot.lights, steered, state]

theorem Slot.lights_of_halted {q : Place} {b : BaseState} (steered : t.channels.lights.mode = .steered)
    (halted : q.convoy.state = .halted b) : t.lights (some q) = haltLights q.convoy.halt.lights t := by
  simp only [Slot.lights, steered, halted]

theorem haltLights_unchanged (reverse : Bool) :
    (haltLights .unchanged t).mapped reverse = (t.sent.map Sent.lights).getD t.channels.lights.value := by
  unfold haltLights
  cases t.sent <;> rfl

theorem Place.horn_iff (drivers : DriverPort) (q : Place) :
    q.horn drivers = true ↔ q.position = 0 ∧ ∃ d, q.convoy.source = .driver d ∧ (Table.at drivers.handsets d).horn = true := by
  unfold Place.horn
  cases q.convoy.source <;> simp

theorem Slot.aux_of_fixed {drivers : DriverPort} (fixed : t.channels.aux.mode = .fixed) :
    t.aux drivers place = t.channels.aux.fixedValue := by
  simp only [Slot.aux, fixed]

theorem Slot.aux_of_steered {drivers : DriverPort} (steered : t.channels.aux.mode = .steered) :
    t.aux drivers place =
      if ∃ q, place = some q ∧ q.horn drivers = true then { us := 2000, composed := true }
      else t.channels.aux.fixedValue := by
  cases place <;> simp [Slot.aux, steered]

/-- The throttle that a slot is given, by its on-air state and its throttle channel. -/
theorem Slot.wanted_eq (air : OnAir) (some : air ≠ .offAir) :
    t.wanted air place =
      if air ≠ .onAir then Throttle.rest
      else if t.channels.throttle.mode = .steered then steeredThrottle place t
      else { value := t.channels.throttle.fixedValue,
             cls := fixedClass t.settings.reverse.throttle t.channels.throttle.value } := by
  unfold Slot.wanted Slot.throttle
  cases air with
  | offAir => exact absurd rfl some
  | onAir => cases mode : t.channels.throttle.mode <;> rfl
  | rundown n => rfl

end Channels

theorem fixedClass_eq (reverse : Bool) (us : Nat) :
    fixedClass reverse us =
      if us = 1500 then .stop else .drive (if (decide (1500 < us) != reverse) = true then .forward else .reverse) := by
  unfold fixedClass Travel.other
  by_cases high : 1500 < us <;> cases reverse <;> simp [high]

/-! ## Where a slot stands (R50) -/

theorem Road.placeOf_eq_none (r : Road) (i : SlotId) :
    r.placeOf i = none ↔ ∀ c, ∀ m ∈ (r.convoy c).members, m.slot ≠ i := by
  unfold Road.placeOf
  rw [List.findSome?_eq_none_iff]
  simp [List.findIdx?_eq_none_iff]

theorem Road.placeOf_eq_some {r : Road} {i : SlotId} {c : ConvoyId} {n : Nat} (stands : r.placeOf i = some (c, n)) :
    ∃ m, (r.convoy c).members[n]? = some m ∧ m.slot = i := by
  obtain ⟨k, -, found⟩ := List.exists_of_findSome?_eq_some stands
  obtain ⟨j, index, pair⟩ := Option.map_eq_some_iff.mp found
  obtain ⟨rfl, rfl⟩ := Prod.mk.inj pair
  obtain ⟨low, member, -⟩ := List.findIdx?_eq_some_iff_getElem.mp index
  exact ⟨_, List.getElem?_eq_getElem low, by simpa using member⟩

end Sys2Proof.Machine
end

section
/-! FRAME_START (R101, R102, R130 to R136, R139 to R143). -/

namespace Sys2Proof.Machine

/-! ## The convoys at a frame start -/

/-- A frame start leaves a convoy's state, source and halt actions. -/
theorem Convoy.frame_keeps (mode : ModeControl) (drivers : DriverPort) (period : Nat) (v : Convoy) :
    (v.frame mode drivers period).1.state = v.state ∧ (v.frame mode drivers period).1.source = v.source
      ∧ (v.frame mode drivers period).1.halt.throttle = v.halt.throttle
      ∧ (v.frame mode drivers period).1.halt.lights = v.halt.lights := by
  rw [Convoy.frame_eq]
  dsimp only
  split
  · exact ⟨rfl, rfl, rfl, rfl⟩
  · exact ⟨rfl, rfl, rfl, rfl⟩

section Answers

variable (p : Part) (c : ConvoyId)

/-- What the engine answers for the members of convoy `c`. -/
def Part.answerOf : Answer :=
  if (p.road.convoy c).state.formed = true then ((p.road.convoy c).frame p.mode p.drivers p.framePeriod).2 else .neutral

theorem Part.answers_convoy :
    (Table.at p.answers c).1
      = if (p.road.convoy c).state.formed then ((p.road.convoy c).frame p.mode p.drivers p.framePeriod).1
        else p.road.convoy c := by
  rw [Part.answers, Table.at_mapAll]
  exact apply_ite Prod.fst _ _ _

theorem Part.answers_answer : (Table.at p.answers c).2 = p.answerOf c := by
  rw [Part.answers, Table.at_mapAll]
  exact apply_ite Prod.snd _ _ _

theorem Part.answers_keep :
    (Table.at p.answers c).1.state = (p.road.convoy c).state ∧ (Table.at p.answers c).1.source = (p.road.convoy c).source
      ∧ (Table.at p.answers c).1.halt.throttle = (p.road.convoy c).halt.throttle
      ∧ (Table.at p.answers c).1.halt.lights = (p.road.convoy c).halt.lights := by
  rw [Part.answers_convoy]
  split
  · exact Convoy.frame_keeps _ _ _ _
  · exact ⟨rfl, rfl, rfl, rfl⟩

end Answers

/-! ## A slot's place -/

section Place

variable (p : Part) (i : SlotId)

/-- The place of slot `i` at a frame start. -/
def Part.placeNow : Option Place := placeIn p.road p.answers i

variable {p i}

theorem Part.placeNow_eq_none (free : p.road.placeOf i = none) : p.placeNow i = none := by
  rw [Part.placeNow, placeIn, free]
  rfl

theorem Part.placeNow_eq_some {c : ConvoyId} {n : Nat} (stands : p.road.placeOf i = some (c, n)) :
    p.placeNow i = some { convoy := (Table.at p.answers c).1, answer := (Table.at p.answers c).2, position := n } := by
  rw [Part.placeNow, placeIn, stands]
  rfl

/-- A fact about the place of a slot, as one about the convoy the slot stands in. -/
theorem Part.exists_placeNow (P : Place → Prop) :
    (∃ q, p.placeNow i = some q ∧ P q)
      ↔ ∃ c n, p.road.placeOf i = some (c, n)
          ∧ P { convoy := (Table.at p.answers c).1, answer := (Table.at p.answers c).2, position := n } := by
  cases stands : p.road.placeOf i with
  | none => simp [Part.placeNow_eq_none stands]
  | some e =>
    obtain ⟨k, m⟩ := e
    simp only [Part.placeNow_eq_some stands, Option.some.injEq, Prod.mk.injEq, exists_eq_left']
    constructor
    · exact fun holds => ⟨k, m, ⟨rfl, rfl⟩, holds⟩
    · rintro ⟨c, n, ⟨rfl, rfl⟩, holds⟩
      exact holds

theorem released_iff :
    released (p.placeNow i) = true
      ↔ ∃ c n, p.road.placeOf i = some (c, n) ∧ (p.road.convoy c).state.isHalted = true
          ∧ (p.road.convoy c).halt.throttle = .release := by
  have unfolded (place : Option Place) : released place = true
      ↔ ∃ q, place = some q ∧ q.convoy.state.isHalted = true ∧ q.convoy.halt.throttle = .release := by
    cases place <;> simp [released]
  rw [unfolded, Part.exists_placeNow fun q => q.convoy.state.isHalted = true ∧ q.convoy.halt.throttle = .release]
  refine exists_congr fun c => exists_congr fun n => ?_
  obtain ⟨state, -, throttle, -⟩ := p.answers_keep c
  rw [state, throttle]

/-- The state of the convoy that slot `i` stands in. -/
def Part.stateOf (p : Part) (i : SlotId) : Option ConvoyState :=
  (p.road.placeOf i).map fun e => (p.road.convoy e.1).state

theorem Part.placeNow_state : (p.placeNow i).map (fun q => q.convoy.state) = p.stateOf i := by
  unfold Part.stateOf
  cases stands : p.road.placeOf i with
  | none => rw [Part.placeNow_eq_none stands]; rfl
  | some e =>
    obtain ⟨c, n⟩ := e
    rw [Part.placeNow_eq_some stands]
    exact congrArg some (p.answers_keep c).1

theorem Part.placeNow_lights :
    (p.placeNow i).map (fun q => q.convoy.halt.lights)
      = (p.road.placeOf i).map fun e => (p.road.convoy e.1).halt.lights := by
  cases stands : p.road.placeOf i with
  | none => rw [Part.placeNow_eq_none stands]; rfl
  | some e =>
    obtain ⟨c, n⟩ := e
    rw [Part.placeNow_eq_some stands]
    exact congrArg some (p.answers_keep c).2.2.2

theorem locks_placeNow_iff :
    (∃ q, p.placeNow i = some q ∧ q.convoy.state.locks = true)
      ↔ (p.stateOf i = some (.plain .waiting) ∨ p.stateOf i = some (.plain .running))
        ∨ ∃ b, p.stateOf i = some (.halted b) := by
  rw [← Part.placeNow_state]
  cases p.placeNow i with
  | none => simp
  | some q => simp [ConvoyState.locks_iff]

theorem horn_placeNow_iff :
    (∃ q, p.placeNow i = some q ∧ q.horn p.drivers = true)
      ↔ ∃ c d, p.road.placeOf i = some (c, 0) ∧ (p.road.convoy c).source = .driver d
          ∧ (Table.at p.drivers.handsets d).horn = true := by
  rw [Part.exists_placeNow fun q => q.horn p.drivers = true]
  refine exists_congr fun c => ?_
  simp only [Place.horn_iff, (p.answers_keep c).2.1]
  constructor
  · rintro ⟨n, stands, rfl, d, source, horn⟩
    exact ⟨d, stands, source, horn⟩
  · rintro ⟨d, stands, source, horn⟩
    exact ⟨0, stands, rfl, d, source, horn⟩

theorem Slot.ready_iff (t : Slot) :
    t.ready (p.placeNow i) = true
      ↔ t.keyed = true ∧ t.settings.address.isSome = true
        ∧ ¬ ∃ c n, p.road.placeOf i = some (c, n) ∧ (p.road.convoy c).state.isHalted = true
            ∧ (p.road.convoy c).halt.throttle = .release := by
  rw [← released_iff]
  simp [Slot.ready, and_assoc]

theorem steeredThrottle_free (free : p.road.placeOf i = none) (t : Slot) :
    steeredThrottle (p.placeNow i) t = Throttle.rest := by
  rw [Part.placeNow_eq_none free]
  rfl

theorem steeredThrottle_stands {c : ConvoyId} {n : Nat} (stands : p.road.placeOf i = some (c, n)) (t : Slot) :
    steeredThrottle (p.placeNow i) t =
      match p.answerOf c with
      | .neutral => Throttle.rest
      | .percent each travel => shaped t.settings.span (each[n]?.getD 0) travel
      | .halted => haltThrottle (p.road.convoy c).halt.throttle t := by
  rw [Part.placeNow_eq_some stands, ← (p.answers_keep c).2.2.1, ← p.answers_answer c, steeredThrottle]
  cases (Table.at p.answers c).2 with
  | halted => rfl
  | neutral => rfl
  | percent each travel => dsimp only; rw [List.getD_eq_getElem?_getD]

end Place

/-! ## The slots (R141) -/

section Slots

variable (p : Part) (i : SlotId)

theorem Part.at_framedSlots :
    Table.at p.framedSlots i
      = (Table.at p.composer.slots i).framed p.composer.now p.parkHold p.drivers (p.placeNow i) :=
  Table.at_mapAll _ _ _

theorem Part.mem_appliedSlots :
    i ∈ p.appliedSlots
      ↔ (Table.at p.composer.slots i).waiting.isSome = true ∧ (Table.at p.framedSlots i).waiting = none := by
  simp [Part.appliedSlots, Option.isNone_iff_eq_none]

/-- The road with the convoys as they have answered. -/
def Part.answeredRoad : Road := { p.road with convoys := Table.mapAll (fun _ (a : Convoy × Answer) => a.1) p.answers }

/-- The road after a frame start. -/
def Part.framedRoad : Road := p.answeredRoad.raiseAll srcSlotApplied (p.appliedSlots.map Fin.val)

theorem frameStart_eq :
    frameStart p = { p with
      composer := { p.composer with
        slots := p.framedSlots, interval := p.framePeriod, frameTime := p.composer.now,
        airFrame := some (airFrameOf p.composer.now p.framedSlots) },
      road := p.framedRoad,
      time := { p.time with frameDue := p.framePeriod } } := rfl

theorem Part.framedRoad_rest : p.framedRoad = { p.answeredRoad with notices := p.framedRoad.notices } := by
  unfold Part.framedRoad
  by_cases none : p.appliedSlots.map Fin.val = []
  · rw [none, Road.raiseAll_nil]
  · rw [Road.raiseAll_of_ne none]

theorem Part.framedRoad_convoy (c : ConvoyId) :
    p.framedRoad.convoy c
      = if (p.road.convoy c).state.formed then ((p.road.convoy c).frame p.mode p.drivers p.framePeriod).1
        else p.road.convoy c := by
  rw [Part.framedRoad_rest, ← Part.answers_convoy]
  exact Table.at_mapAll _ _ _

theorem Part.framedRoad_source (applied : i ∈ p.appliedSlots) :
    (Table.at p.framedRoad.notices.sources srcSlotApplied).pending = true
      ∧ (Table.at p.framedRoad.notices.sources srcSlotApplied).subjects.getLsbD i.val = true := by
  have listed : i.val ∈ p.appliedSlots.map Fin.val := List.mem_map_of_mem applied
  have low : i.val < 64 := by omega
  unfold Part.framedRoad
  rw [Road.raiseAll_of_ne (List.ne_nil_of_mem listed)]
  simp only [Table.at_put_self, NoticeSource.raised, BitVec.getLsbD_or, getLsbD_subjectsOf]
  exact ⟨trivial, by simp [listed, low]⟩

theorem Part.framedRoad_notices (quiet : ∀ i, (Table.at p.composer.slots i).waiting = none) :
    p.framedRoad.notices = p.road.notices := by
  have none : p.appliedSlots = [] := by
    rw [List.eq_nil_iff_forall_not_mem]
    intro i applied
    have pending := ((p.mem_appliedSlots i).mp applied).1
    rw [quiet i] at pending
    cases pending
  unfold Part.framedRoad
  rw [none]
  rfl

end Slots

end Sys2Proof.Machine
end

section
/-! What a frame start puts on the air (R101, R102, R130 to R136, R139 to R143). -/

namespace Sys2Proof.Machine

theorem holdLast_eq (sent : Option Sent) :
    holdLast sent = (sent.map fun v =>
      ({ value := { us := v.throttle, composed := false }, cls := v.cls } : Throttle)).getD Throttle.rest := by
  cases sent <;> rfl

theorem Slot.airBytes_of_sent {t : Slot} {v : Sent} {a : Nat} (sent : t.sent = some v) (address : t.settings.address = some a)
    (k : Nat) :
    t.airBytes k = b8 a :: (halfBytes v.throttle ++ halfBytes v.coupler ++ halfBytes v.lights ++ halfBytes v.aux) := by
  simp only [Slot.airBytes, sent, address]

/-- The throttle of a FIXED channel. -/
def fixedThrottle (t : Slot) : Throttle :=
  { value := t.channels.throttle.fixedValue, cls := fixedClass t.settings.reverse.throttle t.channels.throttle.value }

theorem Slot.framed_keeps {now : Nat} {hold : Bool} {drivers : DriverPort} {place : Option Place} {t : Slot} :
    (t.framed now hold drivers place).keyed = t.keyed ∧ (t.framed now hold drivers place).channels = t.channels := by
  by_cases off : (t.framed now hold drivers place).onAir = .offAir
  · rw [Slot.framed_of_off off, Slot.silenced_eq]
    exact ⟨rfl, rfl⟩
  · rw [Slot.framed_of_on off, Slot.composed_eq]
    exact ⟨rfl, rfl⟩

section Words

variable {p : Part} {i : SlotId} {t : Slot}

theorem coupler_locked (steered : t.channels.coupler.mode = .steered)
    (locked : (p.stateOf i = some (.plain .waiting) ∨ p.stateOf i = some (.plain .running))
      ∨ ∃ b, p.stateOf i = some (.halted b)) (reverse : Bool) :
    (t.coupler (p.placeNow i)).mapped reverse = if reverse then 3000 - 1000 else 1000 := by
  rw [Slot.coupler_of_steered steered, if_pos (locks_placeNow_iff.mpr locked), mapped_composed]

theorem coupler_free
    (free : t.channels.coupler.mode = .fixed
      ∨ (¬ (p.stateOf i = some (.plain .waiting) ∨ p.stateOf i = some (.plain .running))
        ∧ ¬ ∃ b, p.stateOf i = some (.halted b))) (reverse : Bool) :
    (t.coupler (p.placeNow i)).mapped reverse = t.channels.coupler.value := by
  cases mode : t.channels.coupler.mode with
  | fixed => rw [Slot.coupler_of_fixed mode, mapped_fixedValue]
  | steered =>
    have still := free.resolve_left (by simp [mode])
    rw [Slot.coupler_of_steered mode, if_neg (mt locks_placeNow_iff.mp fun locked => locked.elim still.1 still.2),
      mapped_fixedValue]

theorem lights_free
    (free : t.channels.lights.mode = .fixed
      ∨ (¬ (p.stateOf i = some (.plain .waiting) ∨ p.stateOf i = some (.plain .running))
        ∧ ¬ ∃ b, p.stateOf i = some (.halted b))) (reverse : Bool) :
    (t.lights (p.placeNow i)).mapped reverse = t.channels.lights.value := by
  rcases free with mode | still
  · rw [Slot.lights_of_fixed mode, mapped_fixedValue]
  · rw [Slot.lights_of_still, mapped_fixedValue]
    intro q place
    by_contra locked
    exact (locks_placeNow_iff.mp ⟨q, place, by simpa using locked⟩).elim still.1 still.2

/-- A slot of a convoy in the state `st` has a place whose convoy is in that state. -/
theorem placeNow_of_state {st : ConvoyState} (state : p.stateOf i = some st) :
    ∃ q, p.placeNow i = some q ∧ q.convoy.state = st := by
  rw [← Part.placeNow_state] at state
  exact Option.map_eq_some_iff.mp state

theorem lights_moving (steered : t.channels.lights.mode = .steered)
    (moving : p.stateOf i = some (.plain .waiting) ∨ p.stateOf i = some (.plain .running)) (reverse : Bool) :
    (t.lights (p.placeNow i)).mapped reverse = if reverse then 3000 - 2000 else 2000 := by
  rcases moving with state | state
  · obtain ⟨q, place, state⟩ := placeNow_of_state state
    rw [place, Slot.lights_of_moving steered (.inl state), mapped_composed]
  · obtain ⟨q, place, state⟩ := placeNow_of_state state
    rw [place, Slot.lights_of_moving steered (.inr state), mapped_composed]

theorem lights_halted (steered : t.channels.lights.mode = .steered) (halted : ∃ b, p.stateOf i = some (.halted b))
    {a : LightsAction} (action : ((p.road.placeOf i).map fun e => (p.road.convoy e.1).halt.lights) = some a) :
    t.lights (p.placeNow i) = haltLights a t := by
  obtain ⟨b, state⟩ := halted
  obtain ⟨q, place, state⟩ := placeNow_of_state state
  rw [← Part.placeNow_lights, place] at action
  rw [place, Slot.lights_of_halted steered state]
  exact congrArg (haltLights · t) (Option.some.inj action)

theorem aux_horn (steered : t.channels.aux.mode = .steered)
    (horn : ∃ c d, p.road.placeOf i = some (c, 0) ∧ (p.road.convoy c).source = .driver d
      ∧ (Table.at p.drivers.handsets d).horn = true) (reverse : Bool) :
    (t.aux p.drivers (p.placeNow i)).mapped reverse = if reverse then 3000 - 2000 else 2000 := by
  rw [Slot.aux_of_steered steered, if_pos (horn_placeNow_iff.mpr horn), mapped_composed]

theorem aux_free
    (free : t.channels.aux.mode = .fixed
      ∨ ¬ ∃ c d, p.road.placeOf i = some (c, 0) ∧ (p.road.convoy c).source = .driver d
        ∧ (Table.at p.drivers.handsets d).horn = true) (reverse : Bool) :
    (t.aux p.drivers (p.placeNow i)).mapped reverse = t.channels.aux.value := by
  cases mode : t.channels.aux.mode with
  | fixed => rw [Slot.aux_of_fixed mode, mapped_fixedValue]
  | steered =>
    have silent := free.resolve_left (by simp [mode])
    rw [Slot.aux_of_steered mode, if_neg (mt horn_placeNow_iff.mp silent), mapped_fixedValue]

end Words

/-- Settles O53: a slot that stays off the air is `Slot.silenced`, and the words of any other are `Slot.words`, each channel by
its mode and the slot's place. -/
theorem aFrameStartsOnTheAir : Obligations.AFrameStartsOnTheAir := by
  intro s quiet p k period now answer rest steered fixed state moving halted lights horn reversed
  refine ⟨p.framedSlots, p.framedRoad, _, exec_of_partEvent quiet rfl (frameStart_eq p), fun i => ?slot, rfl,
    p.framedRoad_convoy, ?rest, fun i pending applied => ?applied, p.framedRoad_notices,
    fun i => ⟨p.road.placeOf_eq_none i, fun c n => Road.placeOf_eq_some⟩⟩
  case rest =>
    conv => lhs; rw [p.framedRoad_rest]
    rw [p.framedRoad_rest]
    rfl
  case applied => exact p.framedRoad_source i ((p.mem_appliedSlots i).mpr ⟨pending, applied⟩)
  case slot =>
    have framed := p.at_framedSlots i
    have steeredEq (t : Slot) : steeredThrottle (p.placeNow i) t = steered i t := by
      simp only [steered]
      cases stands : p.road.placeOf i with
      | none => exact steeredThrottle_free stands t
      | some e =>
        obtain ⟨c, n⟩ := e
        rw [steeredThrottle_stands stands]
        have answered : p.answerOf c = answer (p.road.convoy c) := rfl
        rw [answered]
        dsimp only
        generalize answer (p.road.convoy c) = given
        generalize (p.road.convoy c).halt.throttle = action
        cases given with
        | neutral => rfl
        | percent each travel => rfl
        | halted =>
          cases action with
          | holdLast => exact holdLast_eq t.sent
          | neutral => rfl
          | brake => rfl
          | release => rfl
    have fixedEq (t : Slot) : fixedThrottle t = fixed t := by
      rw [fixedThrottle, fixedClass_eq]
      rfl
    intro t u released ready
    have readyIff : t.ready (p.placeNow i) = true ↔ ready := t.ready_iff
    have air : u.onAir = (t.decide p.parkHold (p.placeNow i)).1 := by
      rw [show u = _ from framed, Slot.framed_onAir]
    refine ⟨?_, fun awake => ?_, fun n rundown => ?_, fun off => ?_, fun on => ?_⟩
    · rw [show u = _ from framed]
      exact Slot.framed_keeps
    · rw [air, Slot.decide_of_awake awake]
      refine ⟨fun isReady free => ?_, fun not => ?_⟩
      · rw [readyIff.mpr isReady, free]
        rfl
      · rw [if_neg]
        simpa [imp_iff_not_or, readyIff] using not
    · rw [air, Slot.decide_of_rundown rundown]
      refine ⟨fun notReady => ?_, fun isReady free => ?_, fun isReady held zero => ?_, fun isReady held left => ?_⟩
      · rw [Bool.eq_false_iff.mpr (mt readyIff.mp notReady)]
        rfl
      · rw [readyIff.mpr isReady, free]
        rfl
      · rw [readyIff.mpr isReady, held, zero]
        rfl
      · rw [readyIff.mpr isReady, held, if_neg (by simp), if_neg (by simp), if_neg left]
    · refine (framed.trans (Slot.framed_of_off (framed ▸ off))).trans (Slot.silenced_eq t)
    · intro held applies flags channels
      have wanted : t.wanted u.onAir (p.placeNow i)
          = if u.onAir ≠ .onAir then rest else if t.channels.throttle.mode = .steered then steered i t else fixed t := by
        rw [Slot.wanted_eq _ on, steeredEq, ← fixedEq]
        rfl
      have composed : u = t.composed p.composer.now p.drivers u.onAir (p.placeNow i) := by
        refine framed.trans ((Slot.framed_of_on (framed ▸ on)).trans ?_)
        rw [← framed]
      rw [Slot.composed_eq] at composed
      have heldEq : t.hold p.composer.now (t.wanted u.onAir (p.placeNow i)) = held := by
        rw [wanted]
        rfl
      have appliesIff : t.appliesNow p.composer.now u.onAir (p.placeNow i) = true ↔ applies := by
        rw [Slot.appliesNow, heldEq, Bool.and_eq_true, decide_eq_true_eq]
      have settings : t.settingsNow p.composer.now u.onAir (p.placeNow i)
          = if applies then t.waiting.getD t.settings else t.settings := if_congr appliesIff rfl rfl
      have flagsEq : (t.settingsNow p.composer.now u.onAir (p.placeNow i)).reverse = flags :=
        (congrArg (fun u : Slot => u.settings.reverse) composed).symm
      have words : t.words p.composer.now p.drivers u.onAir (p.placeNow i) = {
          throttle := if applies then 1500 else held.1.value.mapped flags.throttle,
          cls := if applies then .stop else held.1.cls,
          coupler := (t.coupler (p.placeNow i)).mapped flags.coupler, lights := (t.lights (p.placeNow i)).mapped flags.lights,
          aux := (t.aux p.drivers (p.placeNow i)).mapped flags.aux } := by
        rw [Slot.words, heldEq, flagsEq, if_congr appliesIff rfl rfl, if_congr appliesIff rfl rfl]
      have waiting : (if t.appliesNow p.composer.now u.onAir (p.placeNow i) then none else t.waiting)
          = if applies then none else t.waiting := if_congr appliesIff rfl rfl
      rw [words, heldEq, settings, waiting] at composed
      refine ⟨_, composed, rfl, rfl, fun mode locked => coupler_locked mode locked _, fun free => coupler_free free _,
        fun mode moves => lights_moving mode moves _, fun mode halts => ⟨fun action => ?_, fun action => ?_, fun action => ?_,
          fun action => ?_⟩, fun free => lights_free free _, fun mode pressed => aux_horn mode pressed _, fun free => aux_free free _,
        fun a n address => Slot.airBytes_of_sent (congrArg Slot.sent composed) address n⟩
      · exact (congrArg _ (lights_halted mode halts action)).trans (mapped_composed 1500 _)
      · exact (congrArg _ (lights_halted mode halts action)).trans (mapped_composed 2000 _)
      · exact (congrArg _ (lights_halted mode halts action)).trans (mapped_composed 1000 _)
      · exact (congrArg _ (lights_halted mode halts action)).trans (haltLights_unchanged _)

end Sys2Proof.Machine
end

section
/-! SLN, WLN and the events of the accessory lines (R146 to R156). -/

namespace Sys2Proof.Machine

/-! ## Codes -/

theorem lineDirectionOf_isSome (n : Nat) : (lineDirectionOf? n).isSome = true ↔ n ≤ 1 := by
  match n with
  | 0 => simp [lineDirectionOf?]
  | 1 => simp [lineDirectionOf?]
  | k + 2 => simp [lineDirectionOf?]

theorem driveOf_isSome (n : Nat) : (driveOf? n).isSome = true ↔ n ≤ 1 := by
  match n with
  | 0 => simp [driveOf?]
  | 1 => simp [driveOf?]
  | k + 2 => simp [driveOf?]

theorem index?_isSome (k n : Nat) : (index? k n).isSome = true ↔ n < k := by
  by_cases low : n < k
  · simp [index?_of_lt low, low]
  · simp [index?_none (Nat.not_lt.mp low), low]

theorem lineFunctionOf_isSome (code n : Nat) :
    (lineFunctionOf? code n).isSome = true ↔ code ≤ 3 ∧ (code = 2 → n ≤ 7) := by
  match code with
  | 0 => simp [lineFunctionOf?]
  | 1 => simp [lineFunctionOf?]
  | 2 =>
    rw [lineFunctionOf?, Option.isSome_map, index?_isSome]
    omega
  | 3 => simp [lineFunctionOf?]
  | k + 4 => simp [lineFunctionOf?]

/-! ## SLN (R150 to R152) -/

/-- The values of SLN that its first check accepts. -/
def SlnReq.InRange (q : SlnReq) : Prop :=
  (∀ n, q.direction = some n → n ≤ 1) ∧ (∀ n, q.drive = some n → n ≤ 1)
    ∧ (∀ n, q.function = some n → n / 256 ≤ 3 ∧ (n / 256 = 2 → n % 256 ≤ 7)) ∧ (∀ n, q.invert = some n → n ≤ 1)
    ∧ (∀ n, q.wake = some n → n ≤ 1)
    ∧ (∀ n, q.period = some n → n ∈ [500, 1000, 2000, 4000]) ∧ (∀ n, q.gate = some n → n ≤ 7)

theorem SlnReq.valuesOk_iff (q : SlnReq) : q.valuesOk = true ↔ q.InRange := by
  simp only [SlnReq.valuesOk, Bool.and_eq_true, reads_iff, all_iff, lineDirectionOf_isSome, driveOf_isSome, lineFunctionField,
    lineFunctionOf_isSome, flagOf_isSome, flashPeriodOk, List.contains_iff_mem, index?_isSome, Nat.lt_succ_iff,
    SlnReq.InRange, and_assoc]

theorem Road.namer_isSome (r : Road) (i : LineId) :
    (r.namer i).isSome = true ↔ ∃ k d j, (r.sect k).defn = some d ∧ d.junction = some j ∧ j.line = i := by
  obtain ⟨named, unnamed⟩ := r.namer_spec i
  constructor
  · intro isSome
    by_contra none
    rw [unnamed fun k d j defn junction line => none ⟨k, d, j, defn, junction, line⟩] at isSome
    cases isSome
  · rintro ⟨k, d, j, defn, junction, line⟩
    obtain ⟨k', namer, -⟩ := named k d j defn junction line
    obtain ⟨k'', namer, -⟩ := Option.map_eq_some_iff.mp namer
    rw [namer]
    rfl

theorem Line.consistent_iff (l : Line) :
    l.consistent = true ↔ (l.direction = .input → l.function = .data) ∧ (l.direction = .output → l.wake = false) := by
  unfold Line.consistent
  cases l.direction <;> simp

theorem Line.settle_eq (hold : Bool) (cells : Table Cell 8) (old new : Line) (kept : new.flash = old.flash) :
    old.settle hold cells new = { new with
      flash :=
        if hold = true ∨ new.function ≠ .flash then none
        else if new.function = old.function ∧ new.flashPeriod = old.flashPeriod ∧ new.flashGate = old.flashGate then old.flash
        else if (Table.at cells new.flashGate).output then some { phase := true, left := new.flashPeriod / 2 } else none } := by
  have changed : old.flashChanged new = true
      ↔ ¬ (new.function = old.function ∧ new.flashPeriod = old.flashPeriod ∧ new.flashGate = old.flashGate) := by
    simp only [Line.flashChanged, Bool.or_eq_true, decide_eq_true_eq, not_and_or, or_assoc, ne_comm (a := old.function),
      ne_comm (a := old.flashPeriod), ne_comm (a := old.flashGate), Ne]
  unfold Line.settle
  by_cases stops : hold = true ∨ new.function ≠ .flash
  · rw [if_pos stops, if_pos (by simpa using stops)]
    rfl
  · rw [if_neg stops, if_neg (by simpa using stops)]
    by_cases same : new.function = old.function ∧ new.flashPeriod = old.flashPeriod ∧ new.flashGate = old.flashGate
    · rw [if_neg (mt changed.mp (not_not_intro same)), if_pos same, ← kept]
    · have flash : new.function = .flash := by
        by_contra other
        exact stops (.inr other)
      rw [if_pos (changed.mpr same), if_neg same]
      unfold Line.rephase
      cases gate : (Table.at cells new.flashGate).output <;> simp [flash, Line.startFlash, Line.stopFlash]

section Sln

variable {q : SlnReq} {i : LineId} (line : q.line = b8 i.val)
  (fit : FieldsFit slnSizes [q.direction, q.drive, q.function, q.invert, q.wake, q.period, q.gate])
include line fit

theorem answerSln_body {extra : Nat} (low : extra < 2) (p : Part) :
    answerSln (q.line :: b8 (maskOf [q.direction, q.drive, q.function, q.invert, q.wake, q.period, q.gate] + 128 * extra)
        :: writeFields slnSizes [q.direction, q.drive, q.function, q.invert, q.wake, q.period, q.gate]) p
      = if !q.valuesOk then refuse .badVal p
        else if (p.road.namer i).isSome && !(((p.line i).set q).direction = .output && ((p.line i).set q).function = .junction) then
          refuse .inUse p
        else if !((p.line i).set q).consistent then refuse .badVal p
        else accept (offerRise i p (p.setLine i ((p.line i).settle p.parkHold p.cells ((p.line i).set q)))) := by
  have mask := maskOf_lt [q.direction, q.drive, q.function, q.invert, q.wake, q.period, q.gate]
  have small : maskOf [q.direction, q.drive, q.function, q.invert, q.wake, q.period, q.gate] + 128 * extra < 256 := by
    simp only [List.length_cons, List.length_nil] at mask
    omega
  have index : index? 16 q.line.toNat = some i := by rw [line]; exact index?_b8 i (by decide)
  have read := readFields_of_mask fit rfl extra
  simp only [answerSln, readSln, b8_toNat small]
  rw [show 128 = 2 ^ [q.direction, q.drive, q.function, q.invert, q.wake, q.period, q.gate].length from rfl, read]
  simp only [sln, index]

end Sln

/-- Settles O55. -/
theorem slnSetsALine : Obligations.SlnSetsALine := by
  intro q i tag s ready line fields fit l refused flag bit inRange new named keeps fits same phase road wakes
  have answer {extra : Nat} (low : extra < 2) := answerSln_body line fit low s.part
  have plain := answer (extra := 0) (by decide)
  have ok : q.valuesOk = true ↔ inRange := q.valuesOk_iff
  have set (within : inRange) : (s.part.line i).set q = new := by
    obtain ⟨-, -, -, invert, wake, -, -⟩ := within
    simp only [Line.set, newOr_flag invert, newOr_flag wake]
    rfl
  have named' : (s.part.road.namer i).isSome = true ↔ named := s.part.road.namer_isSome i
  have inUse : ((s.part.road.namer i).isSome && !(new.direction = .output && new.function = .junction)) = true
      ↔ named ∧ ¬ keeps := by
    have keeps' : (decide (new.direction = .output) && decide (new.function = .junction)) = true ↔ keeps := by
      rw [Bool.and_eq_true, decide_eq_true_eq, decide_eq_true_eq]
    rw [Bool.and_eq_true, named', Bool.not_eq_true', ← Bool.not_eq_true, keeps']
  have settled : l.settle s.part.parkHold s.part.cells new = { new with flash := phase } := Line.settle_eq _ _ l new rfl
  refine ⟨fun extra low => exec_congr ready rfl rfl rfl rfl ((answer low).trans plain.symm), fun within junction isFit => ?_,
    fun outside => ?_, fun within isNamed other => ?_, fun within junction misfit => ?_⟩
  · rw [ok.mpr within, set within, if_neg (by simp), if_neg (mt inUse.mp fun used => used.2 (junction used.1)),
      (Line.consistent_iff new).mpr isFit, if_neg (by simp)] at plain
    rw [show s.part.line i = l from rfl, settled, offerRise_setLine i s.part { new with flash := phase } rfl] at plain
    exact exec_answers ready plain rfl rfl
  · rw [Bool.eq_false_iff.mpr (mt ok.mp outside), if_pos (by rfl)] at plain
    exact exec_answers ready plain rfl rfl
  · rw [ok.mpr within, set within, if_neg (by simp), if_pos (inUse.mpr ⟨isNamed, other⟩)] at plain
    exact exec_answers ready plain rfl rfl
  · rw [ok.mpr within, set within, if_neg (by simp), if_neg (mt inUse.mp fun used => used.2 (junction used.1)),
      Bool.eq_false_iff.mpr (mt (Line.consistent_iff new).mp misfit), if_pos (by rfl)] at plain
    exact exec_answers ready plain rfl rfl

/-! ## WLN and the events (R147, R151, R153, R156) -/

theorem flagOf_eq {n : Nat} (low : n ≤ 1) : flagOf? n = some (decide (n = 1)) := by
  match n with
  | 0 => rfl
  | 1 => rfl

theorem answerWln_stored {i : LineId} {data : Byte} (low : data.toNat ≤ 1) (p : Part) :
    answerWln [b8 i.val, data] p = accept (p.setLine i { p.line i with data := decide (data = 1) }) := by
  have flag : (decide (data.toNat = 1)) = decide (data = 1) := decide_eq_decide.mpr (BitVec.toNat_inj (y := (1 : Byte)))
  simp only [answerWln, wln, index?_b8 i (by decide : 16 ≤ 256), flagOf_eq low, flag]

theorem answerWln_refused {i : LineId} {data : Byte} (high : 1 < data.toNat) (p : Part) :
    answerWln [b8 i.val, data] p = refuse .badVal p := by
  have none : flagOf? data.toNat = none := by
    rw [← Option.not_isSome_iff_eq_none, flagOf_isSome]
    omega
  simp only [answerWln, wln, index?_b8 i (by decide : 16 ≤ 256), none]

theorem Line.toggled_eq (l : Line) :
    l.toggled = { l with flash := l.flash.map fun f => { phase := !f.phase, left := l.flashPeriod / 2 } } := by
  unfold Line.toggled
  cases flash : l.flash with
  | none =>
    have same : l = { l with flash := none } := by rw [← flash]
    exact same
  | some f => rfl

/-! ## What a line drives and reads (R146, R148, R155) -/

section Driven

variable {hold : Bool} {cells : Table Cell 8} {l : Line}

theorem Line.drivenValue_flash (flash : l.function = .flash) :
    l.drivenValue cells = match l.flash with
      | some f => if (Table.at cells l.flashGate).output then f.phase else l.data
      | none => l.data := by
  simp only [Line.drivenValue, flash] <;> cases l.flash <;> rfl

theorem Line.driven_iff (free : l.frozen = none) :
    l.driven hold = true ↔ l.direction = .output ∧ l.drive = .enabled ∧ hold = false := by
  simp only [Line.driven, free, Option.isSome_none, Bool.false_or, Bool.and_eq_true, Bool.not_eq_true', decide_eq_true_eq]
  tauto

theorem pinOf_eq (invert level : Bool) : pinOf invert level = if level = invert then .low else .high := by
  cases invert <;> cases level <;> rfl

theorem levelOf_iff (invert : Bool) (pin : PinState) : levelOf invert pin = true ↔ pin = if invert then .low else .high := by
  cases invert <;> cases pin <;> decide

theorem Line.level_of_free (free : l.frozen = none) :
    l.level hold cells = if l.driven hold then l.drivenValue cells else levelOf l.invert l.wire := by
  simp only [Line.level, free]

theorem Line.pinOut_of_free (free : l.frozen = none) :
    l.pinOut hold cells = if l.driven hold then some (pinOf l.invert (l.drivenValue cells)) else none := by
  simp only [Line.pinOut, free]

end Driven

/-- Settles O56. -/
theorem linesAreWrittenReadAndFlashed : Obligations.LinesAreWrittenReadAndFlashed := by
  refine ⟨fun i data tag s ready => ⟨fun low => exec_answers ready (answerWln_stored low _) rfl rfl,
    fun high => exec_answers ready (answerWln_refused high _) rfl rfl⟩, fun i pin s quiet => ?pin, fun i s running => ?toggle,
    fun hold cells l => ?drives⟩
  case pin =>
    intro l road level wakes
    have event : exec (.linePinChange i pin) s = partEvent (linePinChange i pin) s := if_neg (by simp [quiet.1])
    refine exec_of_partEvent quiet event ((offerRise_setLine i s.part { l with wire := pin } rfl).trans ?_)
    refine if_congr ?_ rfl rfl
    simp only [wakes, level, levelOf]
    tauto
  case toggle =>
    intro l
    rw [← Line.toggled_eq]
    exact quietEvent_running running (flashToggle i)
  case drives =>
    intro value gate drives
    refine ⟨fun fn => ?_, fun fn => ?_, fun k fn => ?_, fun f fn gateOpen phase => ?_, fun fn still => ?_, fun free driven => ?_,
      fun free undriven => ?_, fun f frozen => ?_⟩
    · simp only [value, Line.drivenValue, fn]
    · simp only [value, Line.drivenValue, fn]
    · simp only [value, Line.drivenValue, fn]
    · simp only [value, Line.drivenValue_flash fn, phase]
      exact if_pos gateOpen
    · simp only [value, Line.drivenValue_flash fn]
      rcases still with closed | none
      · cases l.flash with
        | none => rfl
        | some f => exact if_neg (by simp [show (Table.at cells l.flashGate).output = false from closed])
      · rw [none]
    · have drives' := (Line.driven_iff free).mpr driven
      rw [Line.level_of_free free, Line.pinOut_of_free free, if_pos drives', if_pos drives', pinOf_eq]
      exact ⟨rfl, rfl⟩
    · have still := mt (Line.driven_iff free).mp undriven
      rw [Line.level_of_free free, Line.pinOut_of_free free, if_neg still, if_neg still]
      exact ⟨rfl, levelOf_iff _ _⟩
    · simp only [Line.level, Line.pinOut, frozen, and_self]

end Sys2Proof.Machine
end

section
/-! What a departure does when it fires (R166 to R170). -/

namespace Sys2Proof.Machine

/-! ## Matching entries, convoys that depart (R166, R168) -/

theorem fits_iff (field : Option Nat) (n : Nat) : fits field n = true ↔ ∀ k, field = some k → k = n := by
  cases field <;> simp [fits]

theorem Departure.due_iff (k : LayoutClock) (e : Departure) : e.due k = true ↔ e.matches k := by
  simp only [Departure.due, Bool.and_eq_true, fits_iff, Departure.matches, and_assoc]

theorem Convoy.departs_iff (v : Convoy) :
    v.departs = true ↔ v.state = .plain .standing ∧ v.lead = 0 ∧ 1 < v.route.length
      ∧ ∀ n t, 0 < n → v.route[n]? = some t → t.status ≠ .settling ∧ t.status ≠ .held := by
  rw [Convoy.departs, Bool.and_eq_true, Convoy.startable_iff, decide_eq_true_eq]
  constructor
  · rintro ⟨⟨standing, room, unheld⟩, lead⟩
    rw [lead] at room unheld
    exact ⟨standing, lead, by omega, unheld⟩
  · rintro ⟨standing, lead, room, unheld⟩
    rw [lead]
    exact ⟨⟨standing, by omega, unheld⟩, rfl⟩

/-! ## One departure (R167 to R170) -/

section Fire

variable (i : DepartureId) (p : Part)

/-- The part once entry `i` has fired and is told, before its action. -/
def Part.tellsFired : Part :=
  { p with
    departures := Table.put p.departures i { Table.at p.departures i with fired := true },
    road := p.road.raise srcDepartureFired (subject i.val) }

/-- A START that is not honoured. -/
def Part.misses : Prop := (Table.at p.departures i).action = .start ∧ ¬ p.honours (Table.at p.departures i)

variable {i p}

theorem fireDeparture_of_signal (signal : (Table.at p.departures i).action = .signal) :
    fireDeparture i p = p.tellsFired i := by
  simp only [fireDeparture, signal]
  rfl

theorem fireDeparture_of_wake (wake : (Table.at p.departures i).action = .wake) :
    fireDeparture i p = wakeTrigger (p.tellsFired i) := by
  simp only [fireDeparture, wake]
  rfl

theorem fireDeparture_of_resume (resume : (Table.at p.departures i).action = .resume) :
    fireDeparture i p = resumeTrigger (p.tellsFired i) := by
  simp only [fireDeparture, resume]
  rfl

theorem fireDeparture_of_start (start : (Table.at p.departures i).action = .start) :
    fireDeparture i p = startDeparture i (Table.at p.departures i) (p.tellsFired i) := by
  simp only [fireDeparture, start]
  rfl

theorem fireDeparture_of_missed (misses : p.misses i) :
    fireDeparture i p = { p.tellsFired i with
      departures := Table.put p.departures i
        { Table.at p.departures i with fired := true, missed := countUp 255 (Table.at p.departures i).missed },
      road := (p.tellsFired i).road.raise srcDepartureMissed (subject i.val) } := by
  obtain ⟨start, unhonoured⟩ := misses
  have counted : missed i (p.tellsFired i) = { p.tellsFired i with
      departures := Table.put p.departures i
        { Table.at p.departures i with fired := true, missed := countUp 255 (Table.at p.departures i).missed },
      road := (p.tellsFired i).road.raise srcDepartureMissed (subject i.val) } := by
    simp [missed, Part.tellsFired, Table.upd]
  rw [fireDeparture_of_start start, ← counted]
  unfold startDeparture
  cases convoy : (Table.at p.departures i).convoy with
  | none => rfl
  | some c =>
    refine if_neg fun departs => unhonoured ?_
    rw [Bool.and_eq_true, Bool.not_eq_true'] at departs
    exact ⟨c, convoy, departs.1, departs.2⟩

theorem startConvoy_of_departs {c : ConvoyId} {r : Road} {cruise ramp : Nat} (departs : (r.convoy c).departs = true) :
    startConvoy c (r.updConvoy c (Convoy.underTimetable cruise ramp))
      = ask c 1 (r.setConvoy c { r.convoy c with
          state := .plain .waiting, source := .timetable, cruise := cruise, ramp := ramp, ttDemand := 0 }) := by
  obtain ⟨standing, lead, -, -⟩ := (Convoy.departs_iff _).mp departs
  simp only [startConvoy, Road.updConvoy, Road.convoy_setConvoy_self, Road.setConvoy_setConvoy, Convoy.underTimetable, setBase,
    standing, ConvoyState.mapBase, lead]

theorem fireDeparture_of_honoured {c : ConvoyId} (start : (Table.at p.departures i).action = .start)
    (convoy : (Table.at p.departures i).convoy = some c) (honoured : p.honours (Table.at p.departures i)) :
    fireDeparture i p = { p.tellsFired i with
      road := reviewHalts p.cells p.drivers (ask c 1 ((p.tellsFired i).road.setConvoy c { p.road.convoy c with
        state := .plain .waiting, source := .timetable, cruise := (Table.at p.departures i).cruise,
        ramp := (Table.at p.departures i).ramp, ttDemand := 0 })) } := by
  obtain ⟨k, named, departs, free⟩ := honoured
  obtain rfl : c = k := Option.some.inj (convoy.symm.trans named)
  have departs' : ((p.tellsFired i).road.convoy c).departs = true := departs
  rw [fireDeparture_of_start start]
  simp only [startDeparture, convoy]
  rw [if_pos (by rw [departs', show (p.tellsFired i).parkHold = false from free]; rfl), depart_part,
    startConvoy_of_departs departs']
  rfl

theorem resumeTrigger_eq (p : Part) :
    resumeTrigger p = if p.mode.mode = .hold then
      { p with mode := { p.mode with mode := .run }, road := p.road.raise srcModeChanged 0 } else p := by
  unfold resumeTrigger
  by_cases hold : p.mode.mode = .hold
  · simp [hold, changeMode, ModeControl.to, Part.onRoad]
  · rw [if_neg hold, if_neg hold]

theorem wakeTrigger_eq (p : Part) :
    wakeTrigger p = if p.mode.mode = .park then
      { p with mode := { p.mode with mode := .hold, latch := true },
               road := (p.road.raise srcModeChanged 0).raise srcParkWake 0 } else p := by
  by_cases park : p.mode.mode = .park
  · rw [if_pos park, wakeTrigger_of_park park]
  · rw [if_neg park, wakeTrigger_of_not_park park]

end Fire

/-! ## What a departure leaves (R167, R169) -/

/-- The blocks that no departure reaches. -/
structure Part.SameBlocks (x y : Part) : Prop where
  clock : y.clock = x.clock
  pulses : y.pulses = x.pulses
  markers : y.markers = x.markers
  drivers : y.drivers = x.drivers
  cells : y.cells = x.cells
  composer : y.composer = x.composer
  time : y.time = x.time

theorem Part.SameBlocks.refl (x : Part) : Part.SameBlocks x x := ⟨rfl, rfl, rfl, rfl, rfl, rfl, rfl⟩

theorem Part.SameBlocks.trans {x y z : Part} (a : Part.SameBlocks x y) (b : Part.SameBlocks y z) : Part.SameBlocks x z :=
  ⟨b.clock.trans a.clock, b.pulses.trans a.pulses, b.markers.trans a.markers, b.drivers.trans a.drivers,
    b.cells.trans a.cells, b.composer.trans a.composer, b.time.trans a.time⟩

/-- The part `y` after entry `i` of part `x` has fired. -/
structure Part.Fired (i : DepartureId) (x y : Part) : Prop where
  blocks : Part.SameBlocks x y
  entry : y.departures = Table.put x.departures i
    { Table.at x.departures i with fired := true, missed := (Table.at y.departures i).missed }
  counted : x.misses i → (Table.at y.departures i).missed = countUp 255 (Table.at x.departures i).missed
    ∧ Table.at y.road.notices.sources srcDepartureMissed
      = (Table.at x.road.notices.sources srcDepartureMissed).raised (subject i.val)
  uncounted : ¬ x.misses i → (Table.at y.departures i).missed = (Table.at x.departures i).missed
    ∧ Table.at y.road.notices.sources srcDepartureMissed = Table.at x.road.notices.sources srcDepartureMissed
  told : Table.at y.road.notices.sources srcDepartureFired
    = (Table.at x.road.notices.sources srcDepartureFired).raised (subject i.val)

section Fired

variable (i : DepartureId) (x : Part)

theorem Part.tellsFired_missed :
    Table.at (x.tellsFired i).road.notices.sources srcDepartureMissed
      = Table.at x.road.notices.sources srcDepartureMissed :=
  Table.at_upd_other _ (by decide) _

theorem Part.tellsFired_fired :
    Table.at (x.tellsFired i).road.notices.sources srcDepartureFired
      = (Table.at x.road.notices.sources srcDepartureFired).raised (subject i.val) :=
  Table.at_upd_self _ _ _

/-- A departure that changes no more than the mode, the convoys and other notices after it has been told. -/
theorem Part.Fired.of_told {mode : ModeControl} {road : Road} (met : ¬ x.misses i)
    (missed : Table.at road.notices.sources srcDepartureMissed
      = Table.at (x.tellsFired i).road.notices.sources srcDepartureMissed)
    (fired : Table.at road.notices.sources srcDepartureFired
      = Table.at (x.tellsFired i).road.notices.sources srcDepartureFired) :
    Part.Fired i x { x.tellsFired i with mode := mode, road := road } where
  blocks := ⟨rfl, rfl, rfl, rfl, rfl, rfl, rfl⟩
  entry := by simp [Part.tellsFired]
  counted := fun misses => absurd misses met
  uncounted := fun _ => ⟨by simp [Part.tellsFired], missed.trans (x.tellsFired_missed i)⟩
  told := fired.trans (x.tellsFired_fired i)

theorem kept_source {r r' : Road} (kept : Road.Kept r r') {src : SourceId} (high : src ≠ srcConvoyHalted)
    (other : src ≠ srcGrantPromoted) (third : src ≠ srcConvoyArrived) :
    Table.at r'.notices.sources src = Table.at r.notices.sources src :=
  kept.notices.others src high other third

theorem Part.fired_fireDeparture : Part.Fired i x (fireDeparture i x) := by
  have raise (r : Road) {src other : SourceId} (ne : other ≠ src) (u : BitVec 64) :
      Table.at (r.raise src u).notices.sources other = Table.at r.notices.sources other := Table.at_upd_other _ ne _
  by_cases misses : x.misses i
  · rw [fireDeparture_of_missed misses]
    refine ⟨⟨rfl, rfl, rfl, rfl, rfl, rfl, rfl⟩, by simp, fun _ => ⟨by simp, ?_⟩, fun met => absurd misses met, ?_⟩
    · exact (Table.at_upd_self _ _ _).trans (congrArg _ (x.tellsFired_missed i))
    · exact (Table.at_upd_other _ (by decide) _).trans (x.tellsFired_fired i)
  · cases action : (Table.at x.departures i).action with
    | signal =>
      rw [fireDeparture_of_signal action]
      exact .of_told i x misses rfl rfl
    | wake =>
      rw [fireDeparture_of_wake action, wakeTrigger_eq]
      split
      · refine .of_told i x misses ?_ ?_ <;> exact (raise _ (by decide) _).trans (raise _ (by decide) _)
      · exact .of_told i x misses rfl rfl
    | resume =>
      rw [fireDeparture_of_resume action, resumeTrigger_eq]
      split
      · refine .of_told i x misses ?_ ?_ <;> exact raise _ (by decide) _
      · exact .of_told i x misses rfl rfl
    | start =>
      have honoured : x.honours (Table.at x.departures i) := by
        by_contra unhonoured
        exact misses ⟨action, unhonoured⟩
      obtain ⟨c, convoy, -, -⟩ := id honoured
      rw [fireDeparture_of_honoured action convoy honoured]
      have kept := fun r => (kept_ask c 1 r).trans (kept_reviewHalts x.cells x.drivers _)
      refine .of_told i x misses ?_ ?_ <;>
        exact (kept_source (kept _) (by decide) (by decide) (by decide)).trans rfl

end Fired

end Sys2Proof.Machine
end

section
/-! A minute change: the entries examined in turn (R159, R160, R166 to R169). -/

namespace Sys2Proof.Machine

/-! ## The entries in turn -/

theorem Part.examined_zero (p : Part) : p.examined 0 = p := rfl

theorem Part.examined_succ (p : Part) (i : DepartureId) :
    p.examined (i.val + 1)
      = if (Table.at (p.examined i.val).departures i).due (p.examined i.val).clock then fireDeparture i (p.examined i.val)
        else p.examined i.val := by
  have next : (List.finRange 8)[i.val]? = some i := by
    rw [List.getElem?_eq_getElem (by simp)]
    simp
  rw [Part.examined, List.take_add_one, next, List.foldl_append]
  rfl

theorem minuteChange_eq (p : Part) : minuteChange p = p.newMinute.examined 8 := rfl

/-! ## What has been done with an entry -/

/-- Whether part `x` honours an entry is a matter of the entry's convoy alone. -/
theorem Part.honours_congr {x : Part} {e f : Departure} (convoy : f.convoy = e.convoy) : x.honours f ↔ x.honours e := by
  unfold Part.honours
  rw [convoy]

/-- Entry `i` has been examined in part `x`, after a minute change of `p` (R166 to R169). -/
structure Part.Examined (p x : Part) (i : DepartureId) : Prop where
  fired : (Table.at x.departures i).fired = true ↔ (Table.at p.departures i).matches p.clock
  counted : (Table.at p.departures i).matches p.clock → (Table.at p.departures i).action = .start →
    ¬ (p.newMinute.examined i.val).honours (Table.at p.departures i) →
      (Table.at x.departures i).missed = countUp 255 (Table.at p.departures i).missed
        ∧ (Table.at x.road.notices.sources srcDepartureMissed).pending = true
        ∧ (Table.at x.road.notices.sources srcDepartureMissed).subjects.getLsbD i.val = true
  uncounted : (¬ (Table.at p.departures i).matches p.clock ∨ (Table.at p.departures i).action ≠ .start
      ∨ (p.newMinute.examined i.val).honours (Table.at p.departures i)) →
    (Table.at x.departures i).missed = (Table.at p.departures i).missed
  entry : Table.at x.departures i = { Table.at p.departures i with
    fired := (Table.at x.departures i).fired, missed := (Table.at x.departures i).missed }
  told : (Table.at p.departures i).matches p.clock →
    (Table.at x.road.notices.sources srcDepartureFired).pending = true
      ∧ (Table.at x.road.notices.sources srcDepartureFired).subjects.getLsbD i.val = true

/-- A source that has been raised for `i` stays so under a further raise. -/
theorem NoticeSource.raised_keeps {n m : NoticeSource} {u : BitVec 64} {b : Nat} (raised : m = n ∨ m = n.raised u)
    (before : n.pending = true ∧ n.subjects.getLsbD b = true) : m.pending = true ∧ m.subjects.getLsbD b = true := by
  rcases raised with rfl | rfl
  · exact before
  · exact ⟨rfl, by simp [NoticeSource.raised, before.2]⟩

theorem NoticeSource.raised_bit (n : NoticeSource) (i : DepartureId) :
    (n.raised (subject i.val)).pending = true ∧ (n.raised (subject i.val)).subjects.getLsbD i.val = true := by
  have low : i.val < 64 := by omega
  exact ⟨rfl, by simp [NoticeSource.raised, subject, low]⟩

section Step

variable {p x y : Part} {i j : DepartureId}

theorem Part.Fired.missed_source (fired : Part.Fired j x y) :
    Table.at y.road.notices.sources srcDepartureMissed = Table.at x.road.notices.sources srcDepartureMissed
      ∨ Table.at y.road.notices.sources srcDepartureMissed
        = (Table.at x.road.notices.sources srcDepartureMissed).raised (subject j.val) := by
  by_cases misses : x.misses j
  · exact .inr (fired.counted misses).2
  · exact .inl (fired.uncounted misses).2

/-- What has been done with an entry stays so when another fires. -/
theorem Part.Examined.fire (examined : Part.Examined p x i) (fired : Part.Fired j x y) (other : i ≠ j) :
    Part.Examined p y i := by
  have same : Table.at y.departures i = Table.at x.departures i := by rw [fired.entry, Table.at_put_other _ other]
  refine ⟨?_, fun isDue start unhonoured => ?_, fun quiet => ?_, ?_, fun isDue => ?_⟩
  · rw [same]
    exact examined.fired
  · obtain ⟨missed, raised⟩ := examined.counted isDue start unhonoured
    exact ⟨(congrArg Departure.missed same).trans missed, NoticeSource.raised_keeps fired.missed_source raised⟩
  · rw [same]
    exact examined.uncounted quiet
  · rw [same]
    exact examined.entry
  · exact NoticeSource.raised_keeps (.inr fired.told) (examined.told isDue)

/-- The entry under examination that matches has fired. -/
theorem Part.Examined.of_fired (reached : x = p.newMinute.examined i.val)
    (fresh : Table.at x.departures i = { Table.at p.departures i with fired := false })
    (isDue : (Table.at p.departures i).matches p.clock) (fired : Part.Fired i x y) : Part.Examined p y i := by
  have entry : Table.at y.departures i
      = { Table.at x.departures i with fired := true, missed := (Table.at y.departures i).missed } := by
    conv => lhs; rw [fired.entry, Table.at_put_self]
  have flag : (Table.at y.departures i).fired = true := by rw [entry]
  have convoy : (Table.at x.departures i).convoy = (Table.at p.departures i).convoy := by rw [fresh]
  have action : (Table.at x.departures i).action = (Table.at p.departures i).action := by rw [fresh]
  have count : (Table.at x.departures i).missed = (Table.at p.departures i).missed := by rw [fresh]
  have misses : x.misses i ↔ (Table.at p.departures i).action = .start
      ∧ ¬ (p.newMinute.examined i.val).honours (Table.at p.departures i) := by
    rw [Part.misses, action, Part.honours_congr convoy, reached]
  refine ⟨⟨fun _ => isDue, fun _ => flag⟩, fun _ start unhonoured => ?_, fun quiet => ?_, ?_, fun _ => ?_⟩
  · obtain ⟨missed, raised⟩ := fired.counted (misses.mpr ⟨start, unhonoured⟩)
    rw [missed, raised, count]
    exact ⟨rfl, NoticeSource.raised_bit _ i⟩
  · have met : ¬ x.misses i := fun missed => by
      obtain ⟨start, unhonoured⟩ := misses.mp missed
      rcases quiet with notDue | other | honoured
      · exact notDue isDue
      · exact other start
      · exact unhonoured honoured
    rw [(fired.uncounted met).1, count]
  · rw [flag]
    conv => lhs; rw [entry, fresh]
  · rw [fired.told]
    exact NoticeSource.raised_bit _ i

/-- The entry under examination that does not match is left as it is. -/
theorem Part.Examined.of_quiet (fresh : Table.at x.departures i = { Table.at p.departures i with fired := false })
    (quiet : ¬ (Table.at p.departures i).matches p.clock) : Part.Examined p x i := by
  refine ⟨?_, fun isDue => absurd isDue quiet, fun _ => ?_, ?_, fun isDue => absurd isDue quiet⟩
  · rw [fresh]
    simp [quiet]
  · rw [fresh]
  · rw [fresh]

end Step

/-! ## The minute change -/

/-- The state of the examination after its first `n` entries. -/
structure Part.Progress (p : Part) (n : Nat) (x : Part) : Prop where
  blocks : Part.SameBlocks p.newMinute x
  examined : ∀ i : DepartureId, i.val < n → Part.Examined p x i
  ahead : ∀ i : DepartureId, n ≤ i.val → Table.at x.departures i = { Table.at p.departures i with fired := false }
  quiet : (∀ i, ¬ (Table.at p.departures i).matches p.clock) → x.road = p.road ∧ x.mode = p.mode

theorem Part.Progress.next {p : Part} {i : DepartureId} (before : Part.Progress p i.val (p.newMinute.examined i.val)) :
    Part.Progress p (i.val + 1) (p.newMinute.examined (i.val + 1)) := by
  have fresh := before.ahead i (Nat.le_refl _)
  have dueIff : (Table.at (p.newMinute.examined i.val).departures i).due (p.newMinute.examined i.val).clock = true
      ↔ (Table.at p.departures i).matches p.clock := by
    rw [Departure.due_iff, before.blocks.clock, fresh]
    rfl
  rw [Part.examined_succ]
  split
  next isDue =>
    have fired := Part.fired_fireDeparture i (p.newMinute.examined i.val)
    have isDue := dueIff.mp isDue
    refine ⟨before.blocks.trans fired.blocks, fun j low => ?_, fun j high => ?_, fun quiet => absurd isDue (quiet i)⟩
    · by_cases same : j = i
      · subst same
        exact .of_fired rfl fresh isDue fired
      · have low : j.val < i.val := by
          have ne : j.val ≠ i.val := fun value => same (Fin.ext value)
          omega
        exact (before.examined j low).fire fired same
    · have other : j ≠ i := fun same => by
        rw [same] at high
        omega
      rw [fired.entry, Table.at_put_other _ other]
      exact before.ahead j (by omega)
  next notDue =>
    have notDue := mt dueIff.mpr notDue
    refine ⟨before.blocks, fun j low => ?_, fun j high => before.ahead j (by omega), before.quiet⟩
    by_cases same : j = i
    · subst same
      exact .of_quiet fresh notDue
    · have low : j.val < i.val := by
        have ne : j.val ≠ i.val := fun value => same (Fin.ext value)
        omega
      exact before.examined j low

theorem Part.progress_examined (p : Part) (n : Nat) (low : n ≤ 8) : Part.Progress p n (p.newMinute.examined n) := by
  induction n with
  | zero =>
    refine ⟨.refl _, fun i none => absurd none (Nat.not_lt_zero _), fun i _ => ?_, fun _ => ⟨rfl, rfl⟩⟩
    exact Table.at_mapAll _ _ i
  | succ n ih => exact Part.Progress.next (i := ⟨n, low⟩) (ih (by omega))

theorem minuteChanged_minuteChange (p : Part) : MinuteChanged p (minuteChange p) := by
  have done := p.progress_examined 8 le_rfl
  rw [← minuteChange_eq] at done
  have each (i : DepartureId) := done.examined i i.isLt
  exact {
    order := minuteChange_eq p
    clock := done.blocks.clock
    pulses := done.blocks.pulses
    fired := fun i => (each i).fired
    counted := fun i => (each i).counted
    uncounted := fun i => (each i).uncounted
    entries := fun i => (each i).entry
    told := fun i => (each i).told
    rest := ⟨done.blocks.markers, done.blocks.drivers, done.blocks.cells, done.blocks.composer, done.blocks.time⟩
    quiet := done.quiet }

end Sys2Proof.Machine
end

section
/-! SCK, RCK, ADJ, SDP and SCALE_SECOND (R158 to R163, R172). -/

namespace Sys2Proof.Machine

/-! ## The clock (R158, R159, R161 to R163) -/

theorem LayoutClock.carryMinute_eq (k : LayoutClock) : k.carryMinute = k.nextMinute := by
  unfold LayoutClock.carryMinute LayoutClock.carryHour LayoutClock.carryDay LayoutClock.nextMinute
  by_cases minute : k.minute = 59 <;> by_cases hour : k.hour = 23 <;> simp [minute, hour]

section Sck

variable {day hour minute second ratio : Byte} {p : Part}

/-- The values of SCK that its check accepts. -/
def sckInRange (day hour minute second ratio : Byte) : Prop :=
  1 ≤ day.toNat ∧ day.toNat ≤ 7 ∧ hour.toNat ≤ 23 ∧ minute.toNat ≤ 59 ∧ second.toNat ≤ 59
    ∧ (ratio = 0xFF ∨ (1 ≤ ratio.toNat ∧ ratio.toNat ≤ 12))

theorem toNat_eq_255_iff (b : Byte) : b.toNat = 0xFF ↔ b = 0xFF := BitVec.toNat_inj (y := (0xFF : Byte))

theorem answerSck_eq :
    answerSck [day, hour, minute, second, ratio] p =
      if 1 ≤ day.toNat && day.toNat ≤ 7 && hour.toNat ≤ 23 && minute.toNat ≤ 59 && second.toNat ≤ 59
          && (ratio.toNat = 0xFF || (1 ≤ ratio.toNat && ratio.toNat ≤ 12)) then
        accept { p with clock := { p.clock with
          day := day.toNat, hour := hour.toNat, minute := minute.toNat, second := second.toNat, fraction := 0,
          ratio := if ratio = 0xFF then p.clock.ratio else ratio.toNat } }
      else refuse .badVal p := by
  have kept : (noneOr ratio.toNat).getD p.clock.ratio = if ratio = 0xFF then p.clock.ratio else ratio.toNat := by
    unfold noneOr
    by_cases none : ratio = 0xFF
    · rw [if_pos ((toNat_eq_255_iff ratio).mpr none), if_pos none]
      rfl
    · rw [if_neg (mt (toNat_eq_255_iff ratio).mp none), if_neg none]
      rfl
  rw [answerSck, sck, kept]

theorem sckInRange_iff :
    (1 ≤ day.toNat && day.toNat ≤ 7 && hour.toNat ≤ 23 && minute.toNat ≤ 59 && second.toNat ≤ 59
        && (ratio.toNat = 0xFF || (1 ≤ ratio.toNat && ratio.toNat ≤ 12))) = true
      ↔ sckInRange day hour minute second ratio := by
  simp only [Bool.and_eq_true, Bool.or_eq_true, decide_eq_true_eq, toNat_eq_255_iff, sckInRange, and_assoc]

end Sck

theorem rck_of_low {flag : Byte} (low : flag.toNat ≤ 1) (p : Part) :
    answerRck [flag] p = accept { p with clock := { p.clock with running := decide (flag = 0) } } := by
  have zero : flag.toNat = 0 ↔ flag = 0 := BitVec.toNat_inj (y := (0 : Byte))
  rcases Nat.le_one_iff_eq_zero_or_eq_one.mp low with value | value
  · rw [answerRck, value, decide_eq_true (zero.mp value)]
    rfl
  · rw [answerRck, value, decide_eq_false (mt zero.mpr (by rw [value]; decide))]
    rfl

theorem rck_of_high {flag : Byte} (high : 1 < flag.toNat) (p : Part) : answerRck [flag] p = refuse .badVal p := by
  obtain ⟨k, value⟩ := Nat.exists_eq_add_of_le' (show 2 ≤ flag.toNat from high)
  rw [answerRck, value]
  rfl

/-- Settles O57. -/
theorem clockRequests : Obligations.ClockRequests := by
  refine ⟨fun day hour minute second ratio tag s ready => ⟨fun within => ?set, fun outside => ?refused⟩,
    fun flag tag s ready => ⟨fun low => exec_answers ready (rck_of_low low _) rfl rfl,
      fun high => exec_answers ready (rck_of_high high _) rfl rfl⟩,
    fun tag s ready => ⟨fun early => ?down, fun late => ?up⟩⟩
  case set => exact exec_answers ready (answerSck_eq.trans (if_pos (sckInRange_iff.mpr within))) rfl rfl
  case refused => exact exec_answers ready (answerSck_eq.trans (if_neg (mt sckInRange_iff.mp outside))) rfl rfl
  all_goals have answer : answerAdj [] s.part = adj s.part := rfl
  case down =>
    rw [adj, if_pos early] at answer
    exact exec_answers ready answer rfl rfl
  case up =>
    rw [adj, if_neg (Nat.not_lt.mpr late), LayoutClock.carryMinute_eq] at answer
    exact ⟨_, exec_answers ready answer rfl rfl, minuteChanged_minuteChange _⟩

/-! ## SCALE_SECOND (R158, R159) -/

section Second

variable {p : Part}

theorem LayoutClock.secondDue_iff (k : LayoutClock) :
    k.secondDue = true ↔ k.running = true ∧ 1000 ≤ k.fraction + k.ratio := by
  simp [LayoutClock.secondDue]

theorem scaleSecond_of_early (early : ¬ p.clock.secondDue = true) : scaleSecond p = p := if_neg early

theorem scaleSecond_of_second (due : p.clock.secondDue = true) (within : p.clock.second ≠ 59) :
    scaleSecond p = { p with clock := { p.clock with
      second := p.clock.second + 1, fraction := p.clock.fraction + p.clock.ratio - 1000 } } := by
  simp only [scaleSecond, LayoutClock.ticked, due, within, if_true, if_false]

theorem scaleSecond_of_minute (due : p.clock.secondDue = true) (last : p.clock.second = 59) :
    scaleSecond p = minuteChange { p with clock := ({ p.clock with
      second := 0, fraction := p.clock.fraction + p.clock.ratio - 1000 } : LayoutClock).nextMinute } := by
  simp only [scaleSecond, LayoutClock.ticked, due, last, if_true, ← LayoutClock.carryMinute_eq]

end Second

/-- Settles O59. -/
theorem aSecondPasses : Obligations.ASecondPasses := by
  refine ⟨fun s quiet => ?second, fun k e => Departure.due_iff k e, Convoy.departs_iff, fun i p => ?fire⟩
  case second =>
    intro k due left
    have dueIff : k.secondDue = true ↔ due := k.secondDue_iff
    refine ⟨fun early => exec_of_partEvent quiet rfl (scaleSecond_of_early (mt dueIff.mp early)),
      fun isDue within => exec_of_partEvent quiet rfl (scaleSecond_of_second (dueIff.mpr isDue) within),
      fun isDue last => ⟨_, exec_of_partEvent quiet rfl (scaleSecond_of_minute (dueIff.mpr isDue) last),
        minuteChanged_minuteChange _⟩⟩
  case fire =>
    intro e told
    refine ⟨fireDeparture_of_signal, fun wake => (fireDeparture_of_wake wake).trans (wakeTrigger_eq _),
      fun resume => (fireDeparture_of_resume resume).trans (resumeTrigger_eq _),
      fun start => ⟨fun unhonoured => fireDeparture_of_missed ⟨start, unhonoured⟩,
        fun c convoy honoured => fireDeparture_of_honoured start convoy honoured⟩⟩

end Sys2Proof.Machine
end

section
/-! SDP (R172). -/

namespace Sys2Proof.Machine

/-! ## Fields that may be open -/

theorem departureActionOf_isSome (n : Nat) : (departureActionOf? n).isSome = true ↔ n ≤ 3 := by
  match n with
  | 0 => simp [departureActionOf?]
  | 1 => simp [departureActionOf?]
  | 2 => simp [departureActionOf?]
  | 3 => simp [departureActionOf?]
  | k + 4 => simp [departureActionOf?]

theorem openField_isSome (ok : Nat → Bool) (n : Nat) : (openField ok n).isSome = true ↔ n = 0xFF ∨ ok n = true := by
  unfold openField
  split
  next isOpen => simp [isOpen]
  next given => split <;> simp_all

theorem convoyField_isSome (n : Nat) : (convoyField n).isSome = true ↔ n = 0xFF ∨ n ≤ 7 := by
  unfold convoyField
  split
  next isOpen => simp [isOpen]
  next given =>
    rw [Option.isSome_map, index?_isSome]
    omega

/-- A present field that may be open, or the stored one. -/
def givenOr (o old : Option Nat) : Option Nat :=
  match o with
  | some n => if n = 0xFF then none else some n
  | none => old

theorem newOr_openField {ok : Nat → Bool} {o : Option Nat} (fine : ∀ n, o = some n → n = 0xFF ∨ ok n = true) (old : Option Nat) :
    newOr (openField ok) o old = givenOr o old := by
  cases o with
  | none => rfl
  | some n =>
    rcases fine n rfl with isOpen | given
    · simp [newOr, openField, givenOr, isOpen]
    · by_cases isOpen : n = 0xFF <;> simp [newOr, openField, givenOr, isOpen, given]

theorem newOr_convoyField {o : Option Nat} (fine : ∀ n, o = some n → n = 0xFF ∨ n ≤ 7) (old : Option ConvoyId) :
    newOr convoyField o old = (o.map (index? 8)).getD old := by
  cases o with
  | none => rfl
  | some n =>
    rcases fine n rfl with rfl | low
    · simp [newOr, convoyField, index?_none]
    · have given : n ≠ 0xFF := by omega
      simp [newOr, convoyField, given, index?_of_lt (show n < 8 by omega)]

/-! ## SDP -/

/-- The values of SDP that its check accepts. -/
def SdpReq.InRange (q : SdpReq) : Prop :=
  (∀ n, q.enable = some n → n ≤ 1) ∧ (∀ n, q.day = some n → n = 0xFF ∨ (1 ≤ n ∧ n ≤ 7))
    ∧ (∀ n, q.hour = some n → n = 0xFF ∨ n ≤ 23) ∧ (∀ n, q.minute = some n → n = 0xFF ∨ n ≤ 59)
    ∧ (∀ n, q.action = some n → n ≤ 3) ∧ (∀ n, q.convoy = some n → n = 0xFF ∨ n ≤ 7)
    ∧ (∀ n, q.cruise = some n → n ≤ 100) ∧ (∀ n, q.ramp = some n → 1 ≤ n ∧ n ≤ 20)

theorem SdpReq.valuesOk_iff (q : SdpReq) : q.valuesOk = true ↔ q.InRange := by
  simp only [SdpReq.valuesOk, Bool.and_eq_true, reads_iff, all_iff, flagOf_isSome, dayField, hourField, minuteField,
    openField_isSome, departureActionOf_isSome, convoyField_isSome, decide_eq_true_eq, SdpReq.InRange, and_assoc]

/-- The fields of an SDP request, in the order of the mask. -/
def SdpReq.fields (q : SdpReq) : List (Option Nat) :=
  [q.enable, q.day, q.hour, q.minute, q.action, q.convoy, q.cruise, q.ramp, if q.resetMissed then some 0 else none]

/-- The entry that the present fields give, its fired flag and missed count the old ones. -/
def Departure.given (q : SdpReq) (e : Departure) : Departure :=
  { e with
    enabled := (q.enable.map fun n => decide (n = 1)).getD e.enabled, day := givenOr q.day e.day,
    hour := givenOr q.hour e.hour, minute := givenOr q.minute e.minute,
    action := (q.action.bind departureActionOf?).getD e.action, convoy := (q.convoy.map (index? 8)).getD e.convoy,
    cruise := q.cruise.getD e.cruise, ramp := q.ramp.getD e.ramp }

theorem Departure.set_eq {q : SdpReq} (within : q.InRange) (e : Departure) : e.set q = e.given q := by
  obtain ⟨enable, day, hour, minute, -, convoy, -, -⟩ := within
  have day' : newOr dayField q.day e.day = givenOr q.day e.day :=
    newOr_openField (fun n given => by simpa using day n given) _
  have hour' : newOr hourField q.hour e.hour = givenOr q.hour e.hour :=
    newOr_openField (fun n given => by simpa using hour n given) _
  have minute' : newOr minuteField q.minute e.minute = givenOr q.minute e.minute :=
    newOr_openField (fun n given => by simpa using minute n given) _
  simp only [Departure.set, newOr_flag enable, day', hour', minute', newOr_convoyField convoy]
  rfl

theorem Departure.moved_iff (old new : Departure) :
    old.moved new = true ↔ new.day ≠ old.day ∨ new.hour ≠ old.hour ∨ new.minute ≠ old.minute ∨ new.action ≠ old.action := by
  simp only [Departure.moved, Bool.or_eq_true, decide_eq_true_eq, or_assoc, ne_comm (a := new.day), ne_comm (a := new.hour),
    ne_comm (a := new.minute), ne_comm (a := new.action)]

theorem Departure.consistent_iff (e : Departure) : e.consistent = true ↔ (e.action = .start ↔ e.convoy.isSome = true) := by
  rw [Departure.consistent, beq_iff_eq, Bool.eq_iff_iff, decide_eq_true_eq]

section Sdp

variable {q : SdpReq} {i : DepartureId} (entry : q.entry = b8 i.val) (fit : FieldsFit sdpSizes q.fields)
include entry fit

theorem answerSdp_body {extra : Nat} (low : extra < 128) (p : Part) :
    answerSdp (q.entry :: (halfBytes (maskOf q.fields + 512 * extra) ++ writeFields sdpSizes q.fields)) p
      = if q.valuesOk && ((Table.at p.departures i).set q).consistent then
          accept { p with departures := Table.upd p.departures i (Departure.stored q) }
        else refuse .badVal p := by
  have mask := maskOf_lt q.fields
  have small : maskOf q.fields + 512 * extra < 65536 := by
    simp only [SdpReq.fields, List.length_cons, List.length_nil] at mask ⊢
    omega
  have index : index? 8 q.entry.toNat = some i := by rw [entry]; exact index?_b8 i (by decide)
  have length : q.fields.length = 9 := rfl
  have read := readFields_of_mask fit length extra
  rw [length] at read
  have mark : (if q.resetMissed then some 0 else none : Option Nat).isSome = q.resetMissed := by cases q.resetMissed <;> rfl
  have request : readSdp (q.entry :: (halfBytes (maskOf q.fields + 512 * extra) ++ writeFields sdpSizes q.fields)) = some q := by
    simp only [readSdp, halfBytes, List.cons_append, List.nil_append, halfOf_bytes small]
    rw [show 512 = 2 ^ 9 from rfl, read]
    simp only [SdpReq.fields, mark]
  simp only [answerSdp, request, sdp, index]

end Sdp

/-- Settles O58. -/
theorem sdpSetsADeparture : Obligations.SdpSetsADeparture := by
  intro q i tag s ready entry fields fit e inRange openField new moved stored fits
  have answer {extra : Nat} (low : extra < 128) := answerSdp_body entry fit low s.part
  have plain := answer (extra := 0) (by decide)
  rw [Nat.mul_zero, Nat.add_zero] at plain
  have ok : q.valuesOk = true ↔ inRange := q.valuesOk_iff
  have set (within : inRange) : e.set q = new := by
    rw [Departure.set_eq within]
    simp only [Departure.given, new]
    cases q.convoy <;> rfl
  have mayStore : (q.valuesOk && (e.set q).consistent) = true ↔ inRange ∧ fits := by
    rw [Bool.and_eq_true, ok]
    refine and_congr_right fun within => ?_
    rw [set within, Departure.consistent_iff]
  refine ⟨fun extra low => exec_congr ready rfl rfl rfl rfl ((answer low).trans plain.symm), fun within fit => ?_,
    fun outside => ?_⟩
  · have fired : (e.fired && !e.moved new) = if moved then false else e.fired := by
      by_cases isMoved : moved
      · rw [if_pos isMoved, (Departure.moved_iff e new).mpr isMoved]
        simp
      · rw [if_neg isMoved, Bool.eq_false_iff.mpr (mt (Departure.moved_iff e new).mp isMoved)]
        simp
    have kept : e.stored q = stored := by
      simp only [Departure.stored, set within, fired]
      rfl
    rw [if_pos (mayStore.mpr ⟨within, fit⟩), Table.upd, kept] at plain
    exact exec_answers ready plain rfl rfl
  · rw [if_neg (mt mayStore.mp fun both => outside.elim (· both.1) (· both.2))] at plain
    exact exec_answers ready plain rfl rfl

end Sys2Proof.Machine
end

section
/-! MOD, SMO and PRL (R143, R155, R176, R177, R180 to R184). -/

namespace Sys2Proof.Machine

/-! ## MOD (R176, R177, R180, R181) -/

/-- The modes that may follow the mode `old`. -/
def mayFollow (old new : Mode) : Prop :=
  (new ≠ .park ∧ new ≠ old ∧ (old = .park → new = .hold)) ∨ (new = .park ∧ old = .hold)

theorem modAllowed_iff {old new : Mode} (differs : old ≠ new) : modAllowed old new = true ↔ mayFollow old new := by
  unfold mayFollow
  cases old <;> cases new <;> simp_all [modAllowed]

theorem ne_of_mayFollow {old new : Mode} (follows : mayFollow old new) : old ≠ new := by
  rintro rfl
  rcases follows with ⟨-, differs, -⟩ | ⟨park, hold⟩
  · exact differs rfl
  · rw [park] at hold
    cases hold

theorem answerMod_code (m : Mode) (p : Part) : answerMod [b8 (modeCode m)] p = modTo m p := by
  have code : modeOf? (b8 (modeCode m)).toNat = some m := by cases m <;> rfl
  simp only [answerMod, code]

theorem answerMod_unknown {code : Byte} (high : 3 < code.toNat) (p : Part) : answerMod [code] p = modReply .badVal p := by
  obtain ⟨k, value⟩ := Nat.exists_eq_add_of_le' (show 4 ≤ code.toNat from high)
  have none : modeOf? code.toNat = none := by
    rw [value]
    rfl
  simp only [answerMod, none]

section ModTo

variable {m : Mode} {p : Part}

theorem modTo_same (same : p.mode.mode = m) : modTo m p = modReply .ok p := if_pos same

theorem modTo_refused (differs : p.mode.mode ≠ m) (not : ¬ mayFollow p.mode.mode m) : modTo m p = modReply .badMode p := by
  have refused : modAllowed p.mode.mode m = false := Bool.eq_false_iff.mpr (mt (modAllowed_iff differs).mp not)
  rw [modTo, if_neg differs, refused]
  rfl

theorem modTo_awake (follows : mayFollow p.mode.mode m) (awake : m ≠ .park) : modTo m p = modReply .ok (changeMode m p) := by
  have differs := ne_of_mayFollow follows
  rw [modTo, if_neg differs, (modAllowed_iff differs).mpr follows, if_neg (by simp), if_neg awake]

theorem modTo_park (hold : p.mode.mode = .hold) :
    modTo .park p =
      if p.road.activeConvoys.isEmpty then modReply .ok (parkEntry p)
      else (p, { status := .badState, body := p.mode.replyBytes ++ listB (fun c => [b8 c.val]) p.road.activeConvoys }) := by
  rw [modTo, hold]
  rfl

theorem changeMode_eq :
    changeMode m p = { p with
      mode := { p.mode with mode := m, latch := p.mode.latch || decide (p.mode.mode = .park) },
      road := p.road.raise srcModeChanged 0 } := rfl

end ModTo

/-- What a line freezes at park entry. -/
theorem Line.freeze_eq (hold : Bool) (cells : Table Cell 8) (l : Line) :
    l.freeze hold cells = match l.frozen with
      | some f => some f
      | none => if hold = false ∧ l.direction = .output ∧ l.drive = .enabled then
          some { pin := pinOf l.invert (l.drivenValue cells), level := l.drivenValue cells } else none := by
  unfold Line.freeze
  cases frozen : l.frozen with
  | some f => rfl
  | none =>
    refine if_congr ?_ rfl rfl
    rw [Line.driven_iff frozen]
    tauto

theorem Slot.parked_eq (t : Slot) : t.parked = if t.onAir = .onAir then { t with onAir := .rundown 3 } else t := by
  unfold Slot.parked
  cases t.onAir <;> simp

theorem parkEntry_eq (p : Part) :
    parkEntry p = { p with
      mode := { p.mode with mode := .park, latch := p.mode.latch || decide (p.mode.mode = .park) },
      composer := { p.composer with slots := Table.mapAll (fun _ t => t.parked) p.composer.slots },
      road := { p.road.raise srcModeChanged 0 with
        lines := Table.mapAll (fun _ l => l.parked p.parkHold p.cells) p.road.lines } } := rfl

/-! ## SMO (R183) -/

/-- The values of SMO that its check accepts. -/
def SmoReq.InRange (q : SmoReq) : Prop :=
  (∀ n, q.slowLimit = some n → 5 ≤ n ∧ n ≤ 60) ∧ (∀ n, q.holdCell = some n → n = 0xFF ∨ n ≤ 7)
    ∧ (∀ n, q.driverWake = some n → n ≤ 1)

theorem holdCellOf_eq (n : Nat) : holdCellOf? n = convoyField n := rfl

theorem SmoReq.valuesOk_iff (q : SmoReq) : q.valuesOk = true ↔ q.InRange := by
  simp only [SmoReq.valuesOk, Bool.and_eq_true, all_iff, flagOf_isSome, holdCellOf_eq, convoyField_isSome, decide_eq_true_eq,
    SmoReq.InRange, and_assoc]

theorem ModeControl.options_eq {q : SmoReq} (within : q.InRange) (k : ModeControl) :
    k.options q = { k with
      slowLimit := q.slowLimit.getD k.slowLimit, holdCell := (q.holdCell.map (index? 8)).getD k.holdCell,
      driverWake := (q.driverWake.map fun n => decide (n = 1)).getD k.driverWake } := by
  obtain ⟨-, holdCell, driverWake⟩ := within
  have cell : (q.holdCell.bind holdCellOf?).getD k.holdCell = (q.holdCell.map (index? 8)).getD k.holdCell :=
    newOr_convoyField holdCell k.holdCell
  have wake : (q.driverWake.bind flagOf?).getD k.driverWake = (q.driverWake.map fun n => decide (n = 1)).getD k.driverWake :=
    newOr_flag driverWake k.driverWake
  rw [ModeControl.options, cell, wake]

section Smo

variable {q : SmoReq} (fit : FieldsFit smoSizes [q.slowLimit, q.holdCell, q.driverWake])
include fit

theorem answerSmo_body {extra : Nat} (low : extra < 32) (p : Part) :
    answerSmo (b8 (maskOf [q.slowLimit, q.holdCell, q.driverWake] + 8 * extra)
        :: writeFields smoSizes [q.slowLimit, q.holdCell, q.driverWake]) p
      = if q.valuesOk then accept { p with mode := p.mode.options q } else refuse .badVal p := by
  have mask := maskOf_lt [q.slowLimit, q.holdCell, q.driverWake]
  have small : maskOf [q.slowLimit, q.holdCell, q.driverWake] + 8 * extra < 256 := by
    simp only [List.length_cons, List.length_nil] at mask
    omega
  have read := readFields_of_mask fit rfl extra
  simp only [answerSmo, readSmo, b8_toNat small]
  rw [show 8 = 2 ^ [q.slowLimit, q.holdCell, q.driverWake].length from rfl, read]
  simp only [smo]

end Smo

/-! ## PRL (R182) -/

theorem Line.thawed_eq (cells : Table Cell 8) (l : Line) :
    l.thawed cells = { l with
      frozen := none,
      flash := if l.function = .flash ∧ (Table.at cells l.flashGate).output = true
               then some { phase := true, left := l.flashPeriod / 2 } else none } := by
  unfold Line.thawed Line.rephase Line.startFlash Line.stopFlash
  by_cases flash : l.function = .flash ∧ (Table.at cells l.flashGate).output = true
  · rw [if_pos flash, if_pos (by simpa using flash)]
  · rw [if_neg flash, if_neg (by simpa using flash)]

theorem answerPrl_eq (p : Part) :
    answerPrl [] p = if p.mode.mode = .park then refuse .badMode p else if p.mode.latch then accept (endHold p) else accept p := rfl

/-- Settles O60. -/
theorem modeRequests : Obligations.ModeRequests := by
  refine ⟨fun m tag s ready => ?mod, fun code tag s ready high => exec_answers ready (answerMod_unknown high _) rfl rfl,
    fun q tag s ready => ?smo, fun tag s ready => ?prl⟩
  case mod =>
    intro p replied mayFollow' active changed frozen parked rundown
    have answer := answerMod_code m p
    refine ⟨fun same => ?_, fun differs not => ?_, fun follows awake => ?_, fun park hold still => ?_, fun park hold moving => ?_⟩
    · exact exec_answers ready (answer.trans (modTo_same same)) rfl rfl
    · exact exec_answers ready (answer.trans (modTo_refused differs not)) rfl rfl
    · exact exec_answers ready (answer.trans (modTo_awake follows awake)) rfl rfl
    · subst park
      have idle : p.road.activeConvoys.isEmpty = true := List.isEmpty_iff.mpr still
      have lines (l : Line) : l.parked p.parkHold p.cells = parked l :=
        congrArg (fun f => ({ l with frozen := f, flash := none } : Line)) (Line.freeze_eq _ _ l)
      have slots (t : Slot) : t.parked = rundown t := t.parked_eq
      rw [modTo_park hold, if_pos idle, parkEntry_eq] at answer
      simp only [lines, slots] at answer
      exact exec_answers ready answer rfl rfl
    · subst park
      have busy : ¬ p.road.activeConvoys.isEmpty = true := fun idle => moving (List.isEmpty_iff.mp idle)
      rw [modTo_park hold, if_neg busy] at answer
      have listed : listB (fun c : ConvoyId => [b8 c.val]) p.road.activeConvoys = b8 active.length :: active.map fun c => b8 c.val := by
        rw [List.map_eq_flatMap]
        rfl
      rw [listed] at answer
      exact exec_answers ready answer rfl rfl
  case smo =>
    intro fields fit k inRange
    have answer {extra : Nat} (low : extra < 32) := answerSmo_body fit low s.part
    have plain := answer (extra := 0) (by decide)
    rw [Nat.mul_zero, Nat.add_zero] at plain
    have ok : q.valuesOk = true ↔ inRange := q.valuesOk_iff
    refine ⟨fun extra low => exec_congr ready rfl rfl rfl rfl ((answer low).trans plain.symm), fun within => ?_,
      fun outside => ?_⟩
    · have holdCell : (q.holdCell.map (index? 8)).getD k.holdCell
          = match q.holdCell with | some n => index? 8 n | none => k.holdCell := by
        cases q.holdCell <;> rfl
      rw [if_pos (ok.mpr within), show s.part.mode.options q = _ from ModeControl.options_eq within k, holdCell] at plain
      exact exec_answers ready plain rfl rfl
    · rw [if_neg (mt ok.mp outside)] at plain
      exact exec_answers ready plain rfl rfl
  case prl =>
    intro p thawed
    have answer := answerPrl_eq p
    refine ⟨fun park => ?_, fun awake free => ?_, fun awake latched => ?_⟩
    · rw [if_pos park] at answer
      exact exec_answers ready answer rfl rfl
    · rw [if_neg awake, free, if_neg (by simp)] at answer
      exact exec_answers ready answer rfl rfl
    · have ended : endHold p = { p with
          mode := { p.mode with latch := false },
          road := { p.road with lines := Table.mapAll (fun _ l => thawed l) p.road.lines } } := by
        have lines (l : Line) : l.thawed p.cells = thawed l := Line.thawed_eq p.cells l
        simp only [endHold, Road.mapLines, lines]
      rw [if_neg awake, latched, if_pos rfl, ended] at answer
      exact exec_answers ready answer rfl rfl

end Sys2Proof.Machine
end

section
/-! Requests whose bodies have the wrong length (R192, R208, R210). -/

namespace Sys2Proof.Machine

/-! ## Refusals -/

/-- A request that its block refuses leaves the part and the link port as they are but for the reply. -/
theorem exec_refused {c : Instr} {kind tag : Byte} {body : List Byte} {st : Status} {s : State} (ready : Ready s)
    (hc : asRequest? c = some ⟨kind, tag, body⟩) (hr : handle ⟨kind, tag, body⟩ s = (s, Reply.bare st)) :
    exec c s = .next (s.replied kind tag { status := st, body := [] } s.part) := by
  rw [exec_request hc, receiveRequest_ready_state ready, hr]
  obtain ⟨-, -, slot, -, -⟩ := ready
  simp [State.onLink, LinkPort.sendReply, LinkPort.send, lineTime, State.replied, Reply.bare, slot]

theorem exec_refuse {c : Instr} {kind tag : Byte} {body : List Byte} {f : Part → Part × Reply} {st : Status} {s : State}
    (ready : Ready s) (refused : f s.part = refuse st s.part) (hc : asRequest? c = some ⟨kind, tag, body⟩)
    (hk : handle ⟨kind, tag, body⟩ = onPart f) :
    exec c s = .next (s.replied kind tag { status := st, body := [] } s.part) :=
  exec_answers ready refused hc hk

/-! ## Unknown kinds -/

theorem contains_of_toNat {kind : Byte} {n : Nat} (value : kind.toNat = n)
    (known : requestKinds.contains (BitVec.ofNat 8 n) = true) : requestKinds.contains kind = true := by
  subst value
  simpa using known

theorem handle_unknown {kind tag : Byte} {body : List Byte} (unknown : requestKinds.contains kind = false) :
    handle ⟨kind, tag, body⟩ = fun s => (s, Reply.bare .badKind) := by
  have other {n : Nat} (known : requestKinds.contains (BitVec.ofNat 8 n) = true) : kind.toNat ≠ n := fun value => by
    rw [contains_of_toNat value known] at unknown
    cases unknown
  unfold handle
  split
  case h_46 => rfl
  all_goals
    rename_i value
    exact absurd value (other (by decide))

/-! ## Bodies of a fixed length -/

/-- The answers to the requests whose body is empty. -/
def emptyBodyAnswers (body : List Byte) : List (Part → Part × Reply) := [answerAdj body, answerQck body, answerPrl body]

/-- The answers to the requests whose body is one byte. -/
def oneByteAnswers (body : List Byte) : List (Part → Part × Reply) :=
  [answerSqry body, answerDcv body, answerRun body, answerStp body, answerQdr body, answerHlt body, answerRsm body, answerQcl body,
   answerKey body, answerRls body, answerQsl body, answerSfp body, answerQln body, answerRck body, answerQdp body, answerMod body,
   answerQnt body]

/-- The answers to the requests whose body is two bytes. -/
def twoByteAnswers (body : List Byte) : List (Part → Part × Reply) :=
  [answerSout body, answerSmk body, answerQmk body, answerQcv body, answerSpd body, answerWln body]

/-- The answers to the requests whose body is five bytes. -/
def fiveByteAnswers (body : List Byte) : List (Part → Part × Reply) := [answerSch body, answerSck body]

section FixedLength

variable {body : List Byte} {f : Part → Part × Reply}

theorem emptyBody_badLen (long : body.length ≠ 0) (member : f ∈ emptyBodyAnswers body) (p : Part) : f p = refuse .badLen p := by
  have all : emptyBodyAnswers body = List.replicate 3 (refuse .badLen) := by
    match body, long with
    | _ :: _, _ => rfl
  rw [all] at member
  rw [List.eq_of_mem_replicate member]

theorem oneByte_badLen (long : body.length ≠ 1) (member : f ∈ oneByteAnswers body) (p : Part) : f p = refuse .badLen p := by
  have all : oneByteAnswers body = List.replicate 17 (refuse .badLen) := by
    match body, long with
    | [], _ => rfl
    | _ :: _ :: _, _ => rfl
  rw [all] at member
  rw [List.eq_of_mem_replicate member]

theorem twoByte_badLen (long : body.length ≠ 2) (member : f ∈ twoByteAnswers body) (p : Part) : f p = refuse .badLen p := by
  have all : twoByteAnswers body = List.replicate 6 (refuse .badLen) := by
    match body, long with
    | [], _ => rfl
    | [_], _ => rfl
    | _ :: _ :: _ :: _, _ => rfl
  rw [all] at member
  rw [List.eq_of_mem_replicate member]

theorem answerSrst_badLen (long : body.length ≠ 3) (p : Part) : answerSrst body p = refuse .badLen p := by
  match body, long with
  | [], _ => rfl
  | [_], _ => rfl
  | [_, _], _ => rfl
  | _ :: _ :: _ :: _ :: _, _ => rfl

theorem fiveByte_badLen (long : body.length ≠ 5) (member : f ∈ fiveByteAnswers body) (p : Part) : f p = refuse .badLen p := by
  have all : fiveByteAnswers body = List.replicate 2 (refuse .badLen) := by
    match body, long with
    | [], _ => rfl
    | [_], _ => rfl
    | [_, _], _ => rfl
    | [_, _, _], _ => rfl
    | [_, _, _, _], _ => rfl
    | _ :: _ :: _ :: _ :: _ :: _ :: _, _ => rfl
  rw [all] at member
  rw [List.eq_of_mem_replicate member]

theorem answerShl_badLen (long : body.length ≠ 6) (p : Part) : answerShl body p = refuse .badLen p := by
  have none : readShl body = none := by
    unfold readShl
    split
    · exact absurd rfl long
    · rfl
  simp only [answerShl, none]

theorem answerSdef_badLen (long : body.length ≠ 9) (p : Part) : answerSdef body p = refuse .badLen p := by
  have none : readSdef body = none := by
    unfold readSdef
    split
    · exact absurd rfl long
    · rfl
  simp only [answerSdef, none]

theorem answerQst_badLen (long : body.length ≠ 0) (s : State) : answerQst body s = (s, Reply.bare .badLen) := by
  match body, long with
  | _ :: _, _ => rfl

theorem answerRst_badLen (long : body.length ≠ 0) (s : State) : answerRst body s = (s, Reply.bare .badLen) := by
  match body, long with
  | _ :: _, _ => rfl

/-! ## Lists of sources (R200 to R202) -/

theorem readSources_of_long (long : 21 < body.length) : readSources body = none := if_neg (Nat.not_le.mpr long)

theorem listRequest_badLen (long : 21 < body.length) (g : List SourceId → Part → Part) (p : Part) :
    listRequest body g p = refuse .badLen p := by
  simp only [listRequest, readSources_of_long long]

theorem answerCln_badLen (long : 21 < body.length) (s : State) : answerCln body s = (s, Reply.bare .badLen) := by
  simp only [answerCln, readSources_of_long long]

theorem length_of_pairsOf {es : List (Byte × Byte)} (pairs : pairsOf body = some es) : body.length = 2 * es.length := by
  induction body using pairsOf.induct generalizing es with
  | case1 => cases pairs; rfl
  | case2 b => cases pairs
  | case3 a b bs ih =>
    obtain ⟨rest, read, rfl⟩ := Option.map_eq_some_iff.mp pairs
    simp [ih read]
    omega

theorem answerPrn_badLen (misfit : body.length % 2 = 1 ∨ 42 < body.length) (p : Part) : answerPrn body p = refuse .badLen p := by
  have none : readPriorities body = none := by
    unfold readPriorities
    split
    next es pairs =>
      have length := length_of_pairsOf pairs
      exact if_neg (by omega)
    next => rfl
  simp only [answerPrn, none]

end FixedLength

/-! ## Bodies with a count (R211) -/

theorem readFcv_of_short {body : List Byte} (short : body.length < 7) : readFcv body = none := by
  unfold readFcv
  split
  next =>
    simp only [List.length_cons] at short
    omega
  next => rfl

theorem readFcv_of_miscounted {n m : Byte} {rest : List Byte} (misfit : (n :: m :: rest).length ≠ 7 + 2 * m.toNat) :
    readFcv (n :: m :: rest) = none := by
  match rest, misfit with
  | [], _ => rfl
  | [_], _ => rfl
  | [_, _], _ => rfl
  | [_, _, _], _ => rfl
  | [_, _, _, _], _ => rfl
  | home :: dir :: travel :: source :: driver :: pairs, misfit =>
    simp only [readFcv]
    split
    next ms read =>
      have length := length_of_pairsOf read
      simp only [List.length_cons] at misfit
      exact if_neg (by omega)
    next => rfl

theorem readLrt_of_miscounted {n m : Byte} {rest : List Byte} (misfit : (n :: m :: rest).length ≠ 2 + 2 * m.toNat) :
    readLrt (n :: m :: rest) = none := by
  simp only [readLrt]
  split
  next ts read =>
    have length := length_of_pairsOf read
    simp only [List.length_cons] at misfit
    exact if_neg (by omega)
  next => rfl

/-! ## Bodies with a presence mask (R210) -/

theorem length_of_readFields {szs : List Nat} {mask : Nat} {bs : List Byte} {fs : List (Option Nat)}
    (read : readFields szs mask bs = some fs) : fs.length = szs.length := by
  induction szs generalizing mask bs fs with
  | nil =>
    cases bs with
    | nil => cases read; rfl
    | cons b bs => cases read
  | cons sz szs ih =>
    have tail {g : Option Nat} {bs : List Byte}
        (read : (readFields szs (mask / 2) bs).map (fun fs => g :: fs) = some fs) : fs.length = (sz :: szs).length := by
      obtain ⟨rest, inner, rfl⟩ := Option.map_eq_some_iff.mp read
      simp [ih inner]
    unfold readFields at read
    split at read
    · split at read
      · exact tail read
      · exact tail read
      · exact tail read
      · cases read
    · exact tail read

/-- The fields are read exactly from as many bytes as the mask asks for. -/
theorem readFields_isSome {szs : List Nat} (small : ∀ sz ∈ szs, sz ≤ 2) (mask : Nat) (bs : List Byte) :
    (readFields szs mask bs).isSome = true ↔ bs.length = maskLength szs mask := by
  induction szs generalizing mask bs with
  | nil => cases bs <;> simp [readFields, maskLength]
  | cons sz szs ih =>
    have rest := ih fun sz listed => small sz (List.mem_cons_of_mem _ listed)
    have fits : sz ≤ 2 := small sz List.mem_cons_self
    unfold readFields maskLength
    by_cases present : mask % 2 = 1
    · rw [if_pos present, if_pos present]
      match sz, bs, fits with
      | 0, bs, _ => simp [rest]
      | 1, [], _ =>
        simp
        omega
      | 1, b :: bs, _ =>
        simp [rest]
        omega
      | 2, [], _ =>
        simp
        omega
      | 2, [b], _ =>
        simp
        omega
      | 2, hi :: lo :: bs, _ =>
        simp [rest]
        omega
    · rw [if_neg present, if_neg present]
      simp [rest]

end Sys2Proof.Machine
end

section
/-! Requests with a presence mask of the wrong length, and requests that name no record or carry a value out of range (R192,
R210). -/

namespace Sys2Proof.Machine

/-! ## Bodies with a presence mask -/

section Masked

variable {szs : List Nat} {mask : Nat} {bs : List Byte}

theorem readFields_of_misfit (small : ∀ sz ∈ szs, sz ≤ 2) (misfit : bs.length ≠ maskLength szs mask) :
    readFields szs mask bs = none := by
  rw [← Option.not_isSome_iff_eq_none, readFields_isSome small]
  exact misfit

theorem readFields_of_fit (small : ∀ sz ∈ szs, sz ≤ 2) (fit : bs.length = maskLength szs mask) :
    ∃ fs, readFields szs mask bs = some fs ∧ fs.length = szs.length := by
  obtain ⟨fs, read⟩ := Option.isSome_iff_exists.mp ((readFields_isSome small mask bs).mpr fit)
  exact ⟨fs, read, length_of_readFields read⟩

end Masked

section Masks

variable {n m hi lo : Byte} {rest : List Byte} (p : Part)

theorem answerTcv_badLen (misfit : rest.length ≠ maskLength tcvSizes m.toNat) :
    answerTcv (n :: m :: rest) p = refuse .badLen p := by
  simp only [answerTcv, readTcv, readFields_of_misfit (szs := tcvSizes) (by decide) misfit]

theorem answerSsl_badLen (misfit : rest.length ≠ maskLength sslSizes m.toNat) :
    answerSsl (n :: m :: rest) p = refuse .badLen p := by
  simp only [answerSsl, readSsl, readFields_of_misfit (szs := sslSizes) (by decide) misfit]

theorem answerSln_badLen (misfit : rest.length ≠ maskLength slnSizes m.toNat) :
    answerSln (n :: m :: rest) p = refuse .badLen p := by
  simp only [answerSln, readSln, readFields_of_misfit (szs := slnSizes) (by decide) misfit]

theorem answerSmo_badLen (misfit : rest.length ≠ maskLength smoSizes n.toNat) :
    answerSmo (n :: rest) p = refuse .badLen p := by
  simp only [answerSmo, readSmo, readFields_of_misfit (szs := smoSizes) (by decide) misfit]

theorem answerScl_badLen (misfit : rest.length ≠ maskLength sclSizes (hi.toNat * 256 + lo.toNat)) :
    answerScl (n :: hi :: lo :: rest) p = refuse .badLen p := by
  have none : readFields sclSizes (halfOf hi lo) rest = none := readFields_of_misfit (by decide) misfit
  simp only [answerScl, readScl, none]

theorem answerSdp_badLen (misfit : rest.length ≠ maskLength sdpSizes (hi.toNat * 256 + lo.toNat)) :
    answerSdp (n :: hi :: lo :: rest) p = refuse .badLen p := by
  have none : readFields sdpSizes (halfOf hi lo) rest = none := readFields_of_misfit (by decide) misfit
  simp only [answerSdp, readSdp, none]

/-- A mask of no bytes can mark a field of SMO only where a byte follows. -/
theorem maskLength_smo_pos {m : Nat} (marks : m % 8 ≠ 0) : 0 ≠ maskLength smoSizes m := by
  simp only [smoSizes, maskLength]
  split <;> split <;> split <;> omega

theorem answerTcv_badVal (high : 8 ≤ n.toNat) (fit : rest.length = maskLength tcvSizes m.toNat) :
    answerTcv (n :: m :: rest) p = refuse .badVal p := by
  obtain ⟨fs, read, length⟩ := readFields_of_fit (szs := tcvSizes) (by decide) fit
  match fs, length with
  | [_, _, _, _, _, _, _, _], _ => simp only [answerTcv, readTcv, read, tcv, index?_none high]

theorem answerSsl_badVal (high : 24 ≤ n.toNat) (fit : rest.length = maskLength sslSizes m.toNat) :
    answerSsl (n :: m :: rest) p = refuse .badVal p := by
  obtain ⟨fs, read, length⟩ := readFields_of_fit (szs := sslSizes) (by decide) fit
  match fs, length with
  | [_, _, _, _, _, _], _ => simp only [answerSsl, readSsl, read, ssl, index?_none high]

theorem answerSln_badVal (high : 16 ≤ n.toNat) (fit : rest.length = maskLength slnSizes m.toNat) :
    answerSln (n :: m :: rest) p = refuse .badVal p := by
  obtain ⟨fs, read, length⟩ := readFields_of_fit (szs := slnSizes) (by decide) fit
  match fs, length with
  | [_, _, _, _, _, _, _], _ => simp only [answerSln, readSln, read, sln, index?_none high]

theorem answerScl_badVal (high : 8 ≤ n.toNat) (fit : rest.length = maskLength sclSizes (hi.toNat * 256 + lo.toNat)) :
    answerScl (n :: hi :: lo :: rest) p = refuse .badVal p := by
  obtain ⟨fs, read, length⟩ := readFields_of_fit (szs := sclSizes) (mask := halfOf hi lo) (by decide) fit
  match fs, length with
  | [_, _, _, _, _, _, _, _, _, _, _, _, _, _], _ => simp only [answerScl, readScl, read, scl, index?_none high]

theorem answerSdp_badVal (high : 8 ≤ n.toNat) (fit : rest.length = maskLength sdpSizes (hi.toNat * 256 + lo.toNat)) :
    answerSdp (n :: hi :: lo :: rest) p = refuse .badVal p := by
  obtain ⟨fs, read, length⟩ := readFields_of_fit (szs := sdpSizes) (mask := halfOf hi lo) (by decide) fit
  match fs, length with
  | [_, _, _, _, _, _, _, _, _], _ => simp only [answerSdp, readSdp, read, sdp, index?_none high]

end Masks

/-! ## Records that the part does not have -/

section Unknown

variable {n a b c d e : Byte} {f : Part → Part × Reply}

/-- The answers to requests that name convoy, cell, driver or departure `n`. -/
def convoyAnswers (n a b c d e : Byte) : List (Part → Part × Reply) :=
  [answerDcv [n], answerRun [n], answerStp [n], answerQcv [n, a], answerSpd [n, a], answerQdr [n], answerShl [n, a, b, c, d, e],
   answerHlt [n], answerRsm [n], answerQcl [n], answerQdp [n]]

theorem convoyAnswers_badVal (high : 8 ≤ n.toNat) (p : Part) : ∀ f ∈ convoyAnswers n a b c d e, f p = refuse .badVal p := by
  have unknown : index? 8 n.toNat = none := index?_none high
  simp only [convoyAnswers, List.forall_mem_cons, answerDcv, dcv, answerRun, run, answerStp, stp, answerQcv, qcv, answerSpd, spd,
    answerQdr, qdr, answerShl_badVal (.inl high), answerHlt, hlt, answerRsm, rsm, answerQcl, qcl, answerQdp, qdp, unknown,
    List.not_mem_nil, false_implies, implies_true, and_self]

/-- The answers to requests that name section `n`. -/
def sectionAnswers (n a b c d e f g h : Byte) : List (Part → Part × Reply) :=
  [answerSdef [n, a, b, c, d, e, f, g, h], answerSout [n, a], answerSrst [n, a, b], answerSqry [n]]

theorem sectionAnswers_badVal {k l h : Byte} (high : 64 ≤ n.toNat) (p : Part) :
    ∀ f ∈ sectionAnswers n a b c d e k l h, f p = refuse .badVal p := by
  have unknown : index? 64 n.toNat = none := index?_none high
  simp [sectionAnswers, answerSdef, readSdef, sdef, answerSout, sout, answerSrst, srst, answerSqry, sqry, unknown]

/-- The answers to requests that name slot `n`. -/
def slotNumberAnswers (n a b c d : Byte) : List (Part → Part × Reply) :=
  [answerSch [n, a, b, c, d], answerKey [n], answerRls [n], answerQsl [n]]

theorem slotNumberAnswers_badVal (high : 24 ≤ n.toNat) (p : Part) :
    ∀ f ∈ slotNumberAnswers n a b c d, f p = refuse .badVal p := by
  have unknown : index? 24 n.toNat = none := index?_none high
  simp [slotNumberAnswers, answerSch, sch, answerKey, answerRls, keying, answerQsl, qsl, unknown]

/-- The answers to requests that name line `n`. -/
def lineAnswers (n a : Byte) : List (Part → Part × Reply) := [answerWln [n, a], answerQln [n]]

theorem lineAnswers_badVal (high : 16 ≤ n.toNat) (p : Part) : ∀ f ∈ lineAnswers n a, f p = refuse .badVal p := by
  have unknown : index? 16 n.toNat = none := index?_none high
  simp [lineAnswers, answerWln, wln, answerQln, qln, unknown]

end Unknown

/-! ## Values out of range -/

section Values

variable {n a b c d e : Byte} (p : Part)

theorem answerQmk_badVal (outside : 95 < n.toNat ∨ a.toNat < 1 ∨ 16 < a.toNat ∨ 96 < n.toNat + a.toNat) :
    answerQmk [n, a] p = refuse .badVal p :=
  if_pos (by simpa [or_assoc] using outside)

theorem convoyPart_none {c : ConvoyId} {k : Nat} (high : 4 < k) : p.convoyPart c k = none := by
  obtain ⟨k, rfl⟩ := Nat.exists_eq_add_of_le' (show 5 ≤ k from high)
  rfl

theorem answerQcv_badVal (high : 4 < a.toNat) : answerQcv [n, a] p = refuse .badVal p := by
  simp only [answerQcv, qcv, convoyPart_none p high]
  split <;> rfl

theorem flagOf_none {k : Nat} (high : 1 < k) : flagOf? k = none := by
  obtain ⟨k, rfl⟩ := Nat.exists_eq_add_of_le' (show 2 ≤ k from high)
  rfl

theorem answerSout_badVal (high : 1 < a.toNat) : answerSout [n, a] p = refuse .badVal p := by
  simp [answerSout, sout, flagOf_none high]

theorem channelModeOf_none {k : Nat} (high : 1 < k) : channelModeOf? k = none := by
  obtain ⟨k, rfl⟩ := Nat.exists_eq_add_of_le' (show 2 ≤ k from high)
  rfl

theorem Channels.set_none {k : Nat} (high : 3 < k) (v : Channel) (c : Channels) : c.set k v = none := by
  obtain ⟨k, rfl⟩ := Nat.exists_eq_add_of_le' (show 4 ≤ k from high)
  rfl

theorem answerSch_badVal (outside : 3 < b.toNat ∨ 1 < c.toNat) : answerSch [n, b, c, d, e] p = refuse .badVal p := by
  simp only [answerSch, sch]
  split
  next i m _ mode =>
    rcases outside with channel | other
    · rw [Channels.set_none channel]
      split <;> rfl
    · rw [channelModeOf_none other] at mode
      cases mode
  next => rfl

theorem answerQnt_badVal (high : 2 ≤ n.toNat) : answerQnt [n] p = refuse .badVal p := by
  obtain ⟨k, value⟩ := Nat.exists_eq_add_of_le' high
  simp only [answerQnt, value]

end Values

end Sys2Proof.Machine
end

section
/-! Malformed requests (R5, R9, R53, R56, R176, R192, R200 to R202, R208, R210). -/

namespace Sys2Proof.Machine

/-! ## Lists of entries -/

section MapM

variable {α β : Type} {f : α → Option β} {xs : List α}

theorem mapM_of_mem {x : α} (listed : x ∈ xs) (bad : f x = none) : xs.mapM f = none := by
  induction xs with
  | nil => cases listed
  | cons y ys ih =>
    rw [List.mapM_cons]
    rcases List.mem_cons.mp listed with rfl | later
    · simp [bad]
    · cases f y <;> simp [ih later]

theorem length_of_mapM {ys : List β} (read : xs.mapM f = some ys) : ys.length = xs.length := by
  induction xs generalizing ys with
  | nil => simp_all
  | cons x xs ih =>
    rw [List.mapM_cons] at read
    obtain ⟨y, -, rest⟩ := Option.bind_eq_some_iff.mp read
    obtain ⟨zs, tail, last⟩ := Option.bind_eq_some_iff.mp rest
    cases last
    simp [ih tail]

end MapM

theorem pairsOf_pairs (es : List (Byte × Byte)) : pairsOf (es.flatMap fun e => [e.1, e.2]) = some es := by
  rw [pairsOf_flatMap]
  simp

/-! ## FCV (R53) -/

theorem memberOf_none {e : Byte × Byte} (outside : 24 ≤ e.1.toNat ∨ 2 < e.2.toNat) : memberOf? e = none := by
  unfold memberOf?
  split
  next slot named =>
    have low := lt_of_index?_eq_some named
    exact if_neg (by omega)
  next => rfl

theorem dirOf_none {k : Nat} (high : 1 < k) : dirOf? k = none := by
  obtain ⟨k, rfl⟩ := Nat.exists_eq_add_of_le' (show 2 ≤ k from high)
  rfl

theorem travelOf_none {k : Nat} (high : 1 < k) : travelOf? k = none := by
  obtain ⟨k, rfl⟩ := Nat.exists_eq_add_of_le' (show 2 ≤ k from high)
  rfl

/-- What the first check of FCV refuses in a request whose count is right. -/
def FcvReq.OutOfRange (q : FcvReq) : Prop :=
  8 ≤ q.convoy.toNat ∨ q.members.length = 0 ∨ 6 < q.members.length ∨ 64 ≤ q.home.toNat ∨ 1 < q.dir.toNat ∨ 1 < q.travel.toNat
    ∨ 2 < q.source.toNat ∨ (q.source.toNat = 2 ∧ 8 ≤ q.driver.toNat) ∨ ∃ m ∈ q.members, 24 ≤ m.1.toNat ∨ 2 < m.2.toNat

theorem FcvReq.formation_none {q : FcvReq} (outside : q.OutOfRange) : q.formation? = none := by
  unfold FcvReq.formation?
  split
  next convoy home dir travel source members hasConvoy hasHome hasDir hasTravel hasSource hasMembers =>
    have knownConvoy := lt_of_index?_eq_some hasConvoy
    have knownHome := lt_of_index?_eq_some hasHome
    have knownSource := (demandSourceOf_isSome q.driver.toNat q.source.toNat).mp (by rw [hasSource]; rfl)
    have count := length_of_mapM hasMembers
    rcases outside with high | empty | many | high | high | high | high | ⟨driven, high⟩ | ⟨m, listed, bad⟩
    · omega
    · exact if_neg (by simp; omega)
    · exact if_neg (by simp; omega)
    · omega
    · rw [dirOf_none high] at hasDir
      cases hasDir
    · rw [travelOf_none high] at hasTravel
      cases hasTravel
    · omega
    · omega
    · rw [mapM_of_mem listed (memberOf_none bad)] at hasMembers
      cases hasMembers
  next => rfl

theorem answerFcv_badVal {convoy n home dir travel source driver : Byte} {ms : List (Byte × Byte)} (count : ms.length = n.toNat)
    (outside : FcvReq.OutOfRange ⟨convoy, home, dir, travel, source, driver, ms⟩) (p : Part) :
    answerFcv ([convoy, n, home, dir, travel, source, driver] ++ ms.flatMap fun m => [m.1, m.2]) p = refuse .badVal p := by
  have read : readFcv ([convoy, n, home, dir, travel, source, driver] ++ ms.flatMap fun m => [m.1, m.2])
      = some ⟨convoy, home, dir, travel, source, driver, ms⟩ := by
    simp [readFcv, pairsOf_pairs, count]
  simp only [answerFcv, read, fcv, FcvReq.formation_none outside]

/-! ## LRT (R56) -/

theorem stepOf_none {e : Byte × Byte} (outside : 64 ≤ e.1.toNat ∨ 32 ≤ e.2.toNat ∨ e.2.toNat / 2 % 4 = 3) : stepOf? e = none := by
  unfold stepOf?
  dsimp only
  split
  next sec dir branch link travel hasSec hasDir hasBranch hasLink hasTravel =>
    rcases outside with high | high | reserved
    · have known := lt_of_index?_eq_some hasSec
      omega
    · rw [travelOf_none (show 1 < e.2.toNat / 16 by omega)] at hasTravel
      cases hasTravel
    · rw [reserved] at hasBranch
      cases hasBranch
  next => rfl

/-- What the first check of LRT refuses in a request whose count is right. -/
def LrtReq.OutOfRange (q : LrtReq) : Prop :=
  8 ≤ q.convoy.toNat ∨ q.steps.length = 0 ∨ 16 < q.steps.length
    ∨ ∃ t ∈ q.steps, 64 ≤ t.1.toNat ∨ 32 ≤ t.2.toNat ∨ t.2.toNat / 2 % 4 = 3

theorem LrtReq.route_none {q : LrtReq} (outside : q.OutOfRange) : q.route? = none := by
  unfold LrtReq.route?
  split
  next convoy steps hasConvoy hasSteps =>
    have known := lt_of_index?_eq_some hasConvoy
    have count := length_of_mapM hasSteps
    rcases outside with high | empty | many | ⟨t, listed, bad⟩
    · omega
    · exact if_neg (by simp; omega)
    · exact if_neg (by simp; omega)
    · rw [mapM_of_mem listed (stepOf_none bad)] at hasSteps
      cases hasSteps
  next => rfl

theorem answerLrt_badVal {convoy n : Byte} {ts : List (Byte × Byte)} (count : ts.length = n.toNat)
    (outside : LrtReq.OutOfRange ⟨convoy, ts⟩) (p : Part) :
    answerLrt ([convoy, n] ++ ts.flatMap fun t => [t.1, t.2]) p = refuse .badVal p := by
  have read : readLrt ([convoy, n] ++ ts.flatMap fun t => [t.1, t.2]) = some ⟨convoy, ts⟩ := by
    simp [readLrt, pairsOf_pairs, count]
  simp only [answerLrt, read, lrt, LrtReq.route_none outside]

/-! ## Lists of sources (R200 to R202) -/

section Sources

variable {body : List Byte} (short : body.length ≤ 21) (bad : ∃ b ∈ body, 21 ≤ b.toNat)
include short bad

theorem sources_none : readSources body = some body ∧ body.mapM sourceOf? = none := by
  obtain ⟨b, listed, high⟩ := bad
  exact ⟨if_pos short, mapM_of_mem listed (index?_none high)⟩

theorem listRequest_badVal (g : List SourceId → Part → Part) (p : Part) : listRequest body g p = refuse .badVal p := by
  obtain ⟨read, none⟩ := sources_none short bad
  simp only [listRequest, read, none]

theorem answerCln_badVal (s : State) : answerCln body s = (s, Reply.bare .badVal) := by
  obtain ⟨read, none⟩ := sources_none short bad
  simp only [answerCln, read, none]

end Sources

theorem priorityOf_none {e : Byte × Byte} (outside : 21 ≤ e.1.toNat ∨ 7 < e.2.toNat) : priorityOf? e = none := by
  unfold priorityOf? sourceOf?
  split
  next i named =>
    have low := lt_of_index?_eq_some named
    exact if_neg (by omega)
  next => rfl

theorem answerPrn_badVal {es : List (Byte × Byte)} (short : es.length ≤ 21)
    (bad : ∃ e ∈ es, 21 ≤ e.1.toNat ∨ 7 < e.2.toNat) (p : Part) :
    answerPrn (es.flatMap fun e => [e.1, e.2]) p = refuse .badVal p := by
  obtain ⟨e, listed, outside⟩ := bad
  have read : readPriorities (es.flatMap fun e => [e.1, e.2]) = some es := by
    simp [readPriorities, pairsOf_pairs, short]
  simp only [answerPrn, read, mapM_of_mem listed (priorityOf_none outside)]

/-! ## Groups of requests -/

section Groups

variable {tag : Byte} {body : List Byte} {s : State} (ready : Ready s) {c : Instr} {kind : Byte} {f : Part → Part × Reply}
include ready

theorem exec_emptyBody_badLen (long : body.length ≠ 0) (member : f ∈ emptyBodyAnswers body)
    (hc : asRequest? c = some ⟨kind, tag, body⟩) (hk : handle ⟨kind, tag, body⟩ = onPart f) :
    exec c s = .next (s.replied kind tag { status := .badLen, body := [] } s.part) :=
  exec_refuse ready (emptyBody_badLen long member _) hc hk

theorem exec_oneByte_badLen (long : body.length ≠ 1) (member : f ∈ oneByteAnswers body)
    (hc : asRequest? c = some ⟨kind, tag, body⟩) (hk : handle ⟨kind, tag, body⟩ = onPart f) :
    exec c s = .next (s.replied kind tag { status := .badLen, body := [] } s.part) :=
  exec_refuse ready (oneByte_badLen long member _) hc hk

theorem exec_twoByte_badLen (long : body.length ≠ 2) (member : f ∈ twoByteAnswers body)
    (hc : asRequest? c = some ⟨kind, tag, body⟩) (hk : handle ⟨kind, tag, body⟩ = onPart f) :
    exec c s = .next (s.replied kind tag { status := .badLen, body := [] } s.part) :=
  exec_refuse ready (twoByte_badLen long member _) hc hk

theorem exec_fiveByte_badLen (long : body.length ≠ 5) (member : f ∈ fiveByteAnswers body)
    (hc : asRequest? c = some ⟨kind, tag, body⟩) (hk : handle ⟨kind, tag, body⟩ = onPart f) :
    exec c s = .next (s.replied kind tag { status := .badLen, body := [] } s.part) :=
  exec_refuse ready (fiveByte_badLen long member _) hc hk

/-- A group of requests that all answer BADVAL. -/
theorem exec_badVal_of_mem {fs : List (Part → Part × Reply)} (all : ∀ f ∈ fs, f s.part = refuse .badVal s.part) (member : f ∈ fs)
    (hc : asRequest? c = some ⟨kind, tag, body⟩) (hk : handle ⟨kind, tag, body⟩ = onPart f) :
    exec c s = .next (s.replied kind tag { status := .badVal, body := [] } s.part) :=
  exec_refuse ready (all f member) hc hk

end Groups

/-! ## Bodies too short for their heads -/

section Heads

variable {body : List Byte} (p : Part)

theorem answerFcv_of_short (short : body.length < 7) : answerFcv body p = refuse .badLen p := by
  simp only [answerFcv, readFcv_of_short short]

theorem answerFcv_badLen {n m : Byte} {rest : List Byte} (misfit : (n :: m :: rest).length ≠ 7 + 2 * m.toNat) :
    answerFcv (n :: m :: rest) p = refuse .badLen p := by
  simp only [answerFcv, readFcv_of_miscounted misfit]

theorem answerLrt_badLen {n m : Byte} {rest : List Byte} (misfit : (n :: m :: rest).length ≠ 2 + 2 * m.toNat) :
    answerLrt (n :: m :: rest) p = refuse .badLen p := by
  simp only [answerLrt, readLrt_of_miscounted misfit]

/-- The answers to the requests that begin with a record's number and a count or a mask of one byte. -/
def twoByteHeads (body : List Byte) : List (Part → Part × Reply) := [answerLrt body, answerTcv body, answerSsl body, answerSln body]

theorem twoByteHeads_badLen {f : Part → Part × Reply} (short : body.length < 2) (member : f ∈ twoByteHeads body) :
    f p = refuse .badLen p := by
  have all : twoByteHeads body = List.replicate 4 (refuse .badLen) := by
    match body, short with
    | [], _ => rfl
    | [_], _ => rfl
  rw [all] at member
  rw [List.eq_of_mem_replicate member]

/-- The answers to the requests that begin with a record's number and a mask of two bytes. -/
def threeByteHeads (body : List Byte) : List (Part → Part × Reply) := [answerScl body, answerSdp body]

theorem threeByteHeads_badLen {f : Part → Part × Reply} (short : body.length < 3) (member : f ∈ threeByteHeads body) :
    f p = refuse .badLen p := by
  have all : threeByteHeads body = List.replicate 2 (refuse .badLen) := by
    match body, short with
    | [], _ => rfl
    | [_], _ => rfl
    | [_, _], _ => rfl
  rw [all] at member
  rw [List.eq_of_mem_replicate member]

theorem answerSmo_nil : answerSmo [] p = refuse .badLen p := rfl

end Heads

end Sys2Proof.Machine
end

section
/-! Malformed requests: the obligation (R5, R9, R53, R56, R176, R192, R200 to R202, R208, R210). -/

namespace Sys2Proof.Machine

/-- Settles O14: each clause is one answer's refusal, carried to the instruction by `exec_refuse`. -/
theorem malformedRequestsAreRefused : Obligations.MalformedRequestsAreRefused := by
  unfold Obligations.MalformedRequestsAreRefused
  refine ⟨fun kind tag body s ready unknown => exec_refused ready rfl (congrFun (handle_unknown unknown) s), ?_, ?_, ?_⟩
  · intro tag body s ready refused
    refine ⟨fun long => exec_refuse ready (answerSdef_badLen long _) rfl rfl,
      fun long => exec_twoByte_badLen ready (f := answerSout body) long (by simp [twoByteAnswers]) rfl rfl,
      fun long => exec_refuse ready (answerSrst_badLen long _) rfl rfl,
      fun long => exec_oneByte_badLen ready (f := answerSqry body) long (by simp [oneByteAnswers]) rfl rfl,
      fun long => exec_twoByte_badLen ready (f := answerSmk body) long (by simp [twoByteAnswers]) rfl rfl,
      fun long => exec_twoByte_badLen ready (f := answerQmk body) long (by simp [twoByteAnswers]) rfl rfl,
      fun long => exec_oneByte_badLen ready (f := answerDcv body) long (by simp [oneByteAnswers]) rfl rfl,
      fun long => exec_oneByte_badLen ready (f := answerRun body) long (by simp [oneByteAnswers]) rfl rfl,
      fun long => exec_oneByte_badLen ready (f := answerStp body) long (by simp [oneByteAnswers]) rfl rfl,
      fun long => exec_twoByte_badLen ready (f := answerQcv body) long (by simp [twoByteAnswers]) rfl rfl,
      fun long => exec_twoByte_badLen ready (f := answerSpd body) long (by simp [twoByteAnswers]) rfl rfl,
      fun long => exec_oneByte_badLen ready (f := answerQdr body) long (by simp [oneByteAnswers]) rfl rfl,
      fun long => exec_refuse ready (answerShl_badLen long _) rfl rfl,
      fun long => exec_oneByte_badLen ready (f := answerHlt body) long (by simp [oneByteAnswers]) rfl rfl,
      fun long => exec_oneByte_badLen ready (f := answerRsm body) long (by simp [oneByteAnswers]) rfl rfl,
      fun long => exec_oneByte_badLen ready (f := answerQcl body) long (by simp [oneByteAnswers]) rfl rfl,
      fun long => exec_fiveByte_badLen ready (f := answerSch body) long (by simp [fiveByteAnswers]) rfl rfl,
      fun long => exec_oneByte_badLen ready (f := answerKey body) long (by simp [oneByteAnswers]) rfl rfl,
      fun long => exec_oneByte_badLen ready (f := answerRls body) long (by simp [oneByteAnswers]) rfl rfl,
      fun long => exec_oneByte_badLen ready (f := answerQsl body) long (by simp [oneByteAnswers]) rfl rfl,
      fun long => exec_oneByte_badLen ready (f := answerSfp body) long (by simp [oneByteAnswers]) rfl rfl,
      fun long => exec_twoByte_badLen ready (f := answerWln body) long (by simp [twoByteAnswers]) rfl rfl,
      fun long => exec_oneByte_badLen ready (f := answerQln body) long (by simp [oneByteAnswers]) rfl rfl,
      fun long => exec_fiveByte_badLen ready (f := answerSck body) long (by simp [fiveByteAnswers]) rfl rfl,
      fun long => exec_oneByte_badLen ready (f := answerRck body) long (by simp [oneByteAnswers]) rfl rfl,
      fun long => exec_emptyBody_badLen ready (f := answerAdj body) long (by simp [emptyBodyAnswers]) rfl rfl,
      fun long => exec_emptyBody_badLen ready (f := answerQck body) long (by simp [emptyBodyAnswers]) rfl rfl,
      fun long => exec_oneByte_badLen ready (f := answerQdp body) long (by simp [oneByteAnswers]) rfl rfl,
      fun long => exec_oneByte_badLen ready (f := answerMod body) long (by simp [oneByteAnswers]) rfl rfl,
      fun long => exec_emptyBody_badLen ready (f := answerPrl body) long (by simp [emptyBodyAnswers]) rfl rfl,
      fun long => exec_refused ready rfl (answerQst_badLen long s),
      fun long => exec_refused ready rfl (answerRst_badLen long s),
      fun long => exec_refuse ready (listRequest_badLen long _ _) rfl rfl,
      fun long => exec_refuse ready (listRequest_badLen long _ _) rfl rfl,
      fun misfit => exec_refuse ready (answerPrn_badLen misfit _) rfl rfl,
      fun long => exec_refused ready rfl (answerCln_badLen long s),
      fun long => exec_oneByte_badLen ready (f := answerQnt body) long (by simp [oneByteAnswers]) rfl rfl,
      fun short => exec_refuse ready (answerFcv_of_short _ short) rfl rfl,
      fun short => ⟨exec_refuse ready (twoByteHeads_badLen (f := answerLrt body) _ short (by simp [twoByteHeads])) rfl rfl,
        exec_refuse ready (twoByteHeads_badLen (f := answerTcv body) _ short (by simp [twoByteHeads])) rfl rfl,
        exec_refuse ready (twoByteHeads_badLen (f := answerSsl body) _ short (by simp [twoByteHeads])) rfl rfl,
        exec_refuse ready (twoByteHeads_badLen (f := answerSln body) _ short (by simp [twoByteHeads])) rfl rfl⟩,
      fun short => ⟨exec_refuse ready (threeByteHeads_badLen (f := answerScl body) _ short (by simp [threeByteHeads])) rfl rfl,
        exec_refuse ready (threeByteHeads_badLen (f := answerSdp body) _ short (by simp [threeByteHeads])) rfl rfl⟩,
      ?nilSmo, ?masks, ?wideMasks, ?headSmo⟩
    case nilSmo =>
      rintro rfl
      exact exec_refuse ready (answerSmo_nil _) rfl rfl
    case masks =>
      rintro n m rest rfl
      exact ⟨fun misfit => exec_refuse ready (answerFcv_badLen _ misfit) rfl rfl,
        fun misfit => exec_refuse ready (answerLrt_badLen _ misfit) rfl rfl,
        fun misfit => exec_refuse ready (answerTcv_badLen _ misfit) rfl rfl,
        fun misfit => exec_refuse ready (answerSsl_badLen _ misfit) rfl rfl,
        fun misfit => exec_refuse ready (answerSln_badLen _ misfit) rfl rfl,
        fun misfit => exec_refuse ready (answerSmo_badLen _ misfit) rfl rfl⟩
    case wideMasks =>
      rintro n hi lo rest rfl
      exact ⟨fun misfit => exec_refuse ready (answerScl_badLen _ misfit) rfl rfl,
        fun misfit => exec_refuse ready (answerSdp_badLen _ misfit) rfl rfl⟩
    case headSmo =>
      rintro m rfl marks
      exact exec_refuse ready (answerSmo_badLen (rest := []) _ (maskLength_smo_pos marks)) rfl rfl
  · intro tag n a b c d e f g h s ready refused
    refine ⟨?sections, ?convoys, ?slots, ?lines, fun outside => exec_refuse ready (answerQmk_badVal _ outside) rfl rfl,
      fun high => exec_refuse ready (answerQcv_badVal _ high) rfl rfl,
      fun high => exec_refuse ready (answerSout_badVal _ high) rfl rfl,
      fun outside => exec_refuse ready (answerSch_badVal _ outside) rfl rfl,
      fun high => exec_refuse ready (answerQnt_badVal _ high) rfl rfl,
      fun high => exec_answers ready (answerMod_unknown high _) rfl rfl⟩
    case sections =>
      intro high
      have all := sectionAnswers_badVal (a := a) (b := b) (c := c) (d := d) (e := e) (k := f) (l := g) (h := h) high s.part
      exact ⟨exec_badVal_of_mem ready (f := answerSdef [n, a, b, c, d, e, f, g, h]) all (by simp [sectionAnswers]) rfl rfl,
        exec_badVal_of_mem ready (f := answerSout [n, a]) all (by simp [sectionAnswers]) rfl rfl,
        exec_badVal_of_mem ready (f := answerSrst [n, a, b]) all (by simp [sectionAnswers]) rfl rfl,
        exec_badVal_of_mem ready (f := answerSqry [n]) all (by simp [sectionAnswers]) rfl rfl⟩
    case convoys =>
      intro high
      have all := convoyAnswers_badVal (a := a) (b := b) (c := c) (d := d) (e := e) high s.part
      exact ⟨exec_badVal_of_mem ready (f := answerDcv [n]) all (by simp [convoyAnswers]) rfl rfl,
        exec_badVal_of_mem ready (f := answerRun [n]) all (by simp [convoyAnswers]) rfl rfl,
        exec_badVal_of_mem ready (f := answerStp [n]) all (by simp [convoyAnswers]) rfl rfl,
        exec_badVal_of_mem ready (f := answerQcv [n, a]) all (by simp [convoyAnswers]) rfl rfl,
        exec_badVal_of_mem ready (f := answerSpd [n, a]) all (by simp [convoyAnswers]) rfl rfl,
        exec_badVal_of_mem ready (f := answerQdr [n]) all (by simp [convoyAnswers]) rfl rfl,
        exec_badVal_of_mem ready (f := answerShl [n, a, b, c, d, e]) all (by simp [convoyAnswers]) rfl rfl,
        exec_badVal_of_mem ready (f := answerHlt [n]) all (by simp [convoyAnswers]) rfl rfl,
        exec_badVal_of_mem ready (f := answerRsm [n]) all (by simp [convoyAnswers]) rfl rfl,
        exec_badVal_of_mem ready (f := answerQcl [n]) all (by simp [convoyAnswers]) rfl rfl,
        exec_badVal_of_mem ready (f := answerQdp [n]) all (by simp [convoyAnswers]) rfl rfl⟩
    case slots =>
      intro high
      have all := slotNumberAnswers_badVal (a := a) (b := b) (c := c) (d := d) high s.part
      exact ⟨exec_badVal_of_mem ready (f := answerSch [n, a, b, c, d]) all (by simp [slotNumberAnswers]) rfl rfl,
        exec_badVal_of_mem ready (f := answerKey [n]) all (by simp [slotNumberAnswers]) rfl rfl,
        exec_badVal_of_mem ready (f := answerRls [n]) all (by simp [slotNumberAnswers]) rfl rfl,
        exec_badVal_of_mem ready (f := answerQsl [n]) all (by simp [slotNumberAnswers]) rfl rfl⟩
    case lines =>
      intro high
      have all := lineAnswers_badVal (a := a) high s.part
      exact ⟨exec_badVal_of_mem ready (f := answerWln [n, a]) all (by simp [lineAnswers]) rfl rfl,
        exec_badVal_of_mem ready (f := answerQln [n]) all (by simp [lineAnswers]) rfl rfl⟩
  · intro tag s ready refused
    refine ⟨fun n m rest => ⟨fun high fit => exec_refuse ready (answerTcv_badVal _ high fit) rfl rfl,
        fun high fit => exec_refuse ready (answerSsl_badVal _ high fit) rfl rfl,
        fun high fit => exec_refuse ready (answerSln_badVal _ high fit) rfl rfl⟩,
      fun n hi lo rest => ⟨fun high fit => exec_refuse ready (answerScl_badVal _ high fit) rfl rfl,
        fun high fit => exec_refuse ready (answerSdp_badVal _ high fit) rfl rfl⟩, ?fcv, ?lrt,
      fun body short bad => ⟨exec_refuse ready (listRequest_badVal short bad _ _) rfl rfl,
        exec_refuse ready (listRequest_badVal short bad _ _) rfl rfl, exec_refused ready rfl (answerCln_badVal short bad s)⟩,
      fun es short bad => exec_refuse ready (answerPrn_badVal short bad _) rfl rfl⟩
    case fcv =>
      intro convoy n home dir travel source driver ms count outside
      rw [BitVec.toNat_eq (x := n), BitVec.toNat_eq (x := source), ← count] at outside
      exact exec_refuse ready (answerFcv_badVal count outside _) rfl rfl
    case lrt =>
      intro convoy n ts count outside
      rw [BitVec.toNat_eq (x := n), ← count] at outside
      exact exec_refuse ready (answerLrt_badVal count outside _) rfl rfl

end Sys2Proof.Machine
end
